-- ==== Sys2Proof/Word.lean ====
section
/-!
DEFINITION. The bit vectors of DebounceInput CORE, with the widths that 00_scope.md R7 and 30_encoding.md R70 fix.
Bit 0 is the least significant bit of each (R9). One-bit registers, ports and operands are Bool: true stands for 1 (R72).
-/

namespace Sys2Proof

/-- A stage register, 7 bits (10_state.md R20, R21). -/
abbrev Stage := BitVec 7

/-- A value on the 0-255 scale: a lane, a level or a threshold (00_scope.md R12, 10_state.md R25, R26). -/
abbrev Lane := BitVec 8

/-- A tick, the 4 ms timestamp (10_state.md R24). -/
abbrev Tick := BitVec 8

/-- The command word `cmd` (30_encoding.md R70). -/
abbrev Command := BitVec 12

/-- The OP field of a command word (30_encoding.md R70). -/
abbrev OpField := BitVec 3

end Sys2Proof
end

