-- ==== Sys2Proof/Syntax.lean ====
section
/-!
DEFINITION. The commands of the block: one constructor per row of spec/opcode_table.json (30_encoding.md R74). A constructor
carries the operands its row reads and nothing else: ignored bits have no effect (R75).
-/

namespace Sys2Proof

/-- One command (30_encoding.md R74). `s` is the boolean operand S (R72) and `d` the data operand D (R73). -/
inductive Instr where
  /-- NOP (42_control.md R180). -/
  | nop
  /-- RESET s (40_filter.md R120). -/
  | reset (s : Bool)
  /-- FSAMP s (40_filter.md R121). -/
  | fsamp (s : Bool)
  /-- ASAMP s (40_filter.md R122). -/
  | asamp (s : Bool)
  /-- RLSAMP s (41_rate_limiter.md R155). Its clock value is the input port `now_ms`, no part of the word. -/
  | rlsamp (s : Bool)
  /-- WRISE v (42_control.md R181). -/
  | wrise (d : Lane)
  /-- WFALL v (42_control.md R182). -/
  | wfall (d : Lane)
  /-- The reserved opcode, OP = 111 (30_encoding.md R76). -/
  | reserved
deriving DecidableEq, Repr

end Sys2Proof
end

