-- ==== Sys2Proof/Decode.lean ====
section
/-!
DEFINITION. The command decoder and encoder (30_encoding.md). Every 12-bit word decodes (R74, R77), the reserved words to the
constructor `reserved`. Only a number that is no 12-bit word is rejected, by name.
-/

namespace Sys2Proof

/-- OP = `cmd[2:0]` (30_encoding.md R71). -/
def opField (w : Command) : OpField := w.extractLsb' 0 3

/-- S = `cmd[3]` (30_encoding.md R72). -/
def sField (w : Command) : Bool := w.getLsbD 3

/-- D = `cmd[11:4]` (30_encoding.md R73). -/
def dField (w : Command) : Lane := w.extractLsb' 4 8

/-- The command a word stands for (30_encoding.md R74). OP alone chooses it (R71); OP = 111 is the last arm. -/
def decode (w : Command) : Instr :=
  match (opField w).toNat with
  | 0 => .nop
  | 1 => .reset (sField w)
  | 2 => .fsamp (sField w)
  | 3 => .asamp (sField w)
  | 4 => .rlsamp (sField w)
  | 5 => .wrise (dField w)
  | 6 => .wfall (dField w)
  | _ => .reserved

/-- The word with the fields D, S and OP in their places (30_encoding.md R70). -/
def packFields (d : Lane) (s : Bool) (op : OpField) : Command := d ++ BitVec.ofBool s ++ op

/-- The canonical encoding: every ignored bit is 0 (30_encoding.md R75). -/
def encode : Instr → Command
  | .nop => packFields 0#8 false 0b000#3
  | .reset s => packFields 0#8 s 0b001#3
  | .fsamp s => packFields 0#8 s 0b010#3
  | .asamp s => packFields 0#8 s 0b011#3
  | .rlsamp s => packFields 0#8 s 0b100#3
  | .wrise d => packFields d false 0b101#3
  | .wfall d => packFields d false 0b110#3
  | .reserved => packFields 0#8 false 0b111#3

/-- The bits of a word that its command reads: OP, and S or D where the row's pattern has them (30_encoding.md R74, R75). -/
def usedBits (op : OpField) : Command :=
  match op.toNat with
  | 0 => 0x007#12
  | 1 => 0x00F#12
  | 2 => 0x00F#12
  | 3 => 0x00F#12
  | 4 => 0x00F#12
  | 5 => 0xFF7#12
  | 6 => 0xFF7#12
  | _ => 0x007#12

/-- The mnemonic of a command, as spec/opcode_table.json spells it. -/
def Instr.mnemonic : Instr → String
  | .nop => "NOP"
  | .reset _ => "RESET"
  | .fsamp _ => "FSAMP"
  | .asamp _ => "ASAMP"
  | .rlsamp _ => "RLSAMP"
  | .wrise _ => "WRISE"
  | .wfall _ => "WFALL"
  | .reserved => "RESERVED"

/-- One row of the opcode map: its mnemonic, and the mask and match that its words meet (30_encoding.md R74). -/
structure OpcodeRow where
  mnemonic : String
  mask : Command
  value : Command
deriving DecidableEq, Repr

/-- The opcode map, row for row (30_encoding.md R74, spec/opcode_table.json). -/
def opcodeMap : List OpcodeRow :=
  [⟨"NOP", 0x007#12, 0x000#12⟩, ⟨"RESET", 0x007#12, 0x001#12⟩, ⟨"FSAMP", 0x007#12, 0x002#12⟩,
   ⟨"ASAMP", 0x007#12, 0x003#12⟩, ⟨"RLSAMP", 0x007#12, 0x004#12⟩, ⟨"WRISE", 0x007#12, 0x005#12⟩,
   ⟨"WFALL", 0x007#12, 0x006#12⟩, ⟨"RESERVED", 0x007#12, 0x007#12⟩]

/-- Whether a word is one of a row's words. -/
def OpcodeRow.covers (r : OpcodeRow) (w : Command) : Bool := w &&& r.mask == r.value

/-- Why a number is not decoded. -/
inductive DecodeError where
  /-- The number has a bit above bit 11, so it is no command word (30_encoding.md R70). Raised by `decodeNumber`; safe. -/
  | notTwelveBits
deriving DecidableEq, Repr

/-- The command of a number laid out as spec/opcode_table.json numbers the bits: bit 0 is bit 0 of `cmd`. -/
def decodeNumber (w : Nat) : Except DecodeError Instr :=
  if w < 4096 then .ok (decode (BitVec.ofNat 12 w)) else .error .notTwelveBits

/-- The host's question about one row of the opcode table: the command that the low `nbits` bits of `w` stand for. -/
def decodeTableWord (nbits w : Nat) : Option Instr :=
  match decodeNumber (w % 2 ^ nbits) with
  | .ok i => some i
  | .error _ => none

end Sys2Proof
end

