-- ==== Sys2Proof/Config.lean ====
section
/-!
DEFINITION. What is fixed for one block and left open by the spec (00_scope.md R8).
`TICK_RESET` is an argument of the model: a field of State (`tickReset`), so that a statement about every state holds for every
value of it. `INIT_STATE` is the `init_state` input pin. `NOW_W` needs no value: `now_ms` is held as a natural number, and the
block reads only its bits [9:2]. No other parameter exists (R8), and no result of any command is a free value.
-/

namespace Sys2Proof

/-- DESIGN CHOICE (notes/assumptions/4.md, unsafe): the `TICK_RESET` of the block that `State.reset` stands for. The spec leaves
it OPEN (00_scope.md R8, 92_eei_decisions.md D9); no statement rests on this value. -/
def Config.tickResetAtReset : Tick := 0x00#8

/-- The smallest width of the `now_ms` bus (00_scope.md R8, 92_eei_decisions.md D7). -/
def Config.minNowWidth : Nat := 10

end Sys2Proof
end

