-- ==== Sys2Proof/Machine/Constants.lean ====
section
/-!
DEFINITION. The fixed constants of the block (00_scope.md R7, R8): they are no parameters.
-/

namespace Sys2Proof.Machine

/-- The sample increment of stage 1 (40_filter.md R101). -/
def sampleIncrement : Nat := 65

/-- The feedback increment of stage 2 (40_filter.md R102). -/
def feedbackIncrement : Nat := 2

/-- The power-on value of `rising_threshold` (10_state.md R25). -/
def risingDefault : Lane := 0x90#8

/-- The power-on value of `falling_threshold` (10_state.md R26). -/
def fallingDefault : Lane := 0x70#8

/-- The stage register's extreme for an output value: lane 0xFE for true and 0x00 for false (40_filter.md R107, R120). -/
def saturated (b : Bool) : Stage := if b then 0x7F#7 else 0x00#7

end Sys2Proof.Machine
end

