-- ==== Sys2Proof/Machine/State.lean ====
section
/-!
DEFINITION. The state of the block: the seven registers of 10_state.md R32, the parameter TICK_RESET of the block, and what the
host drives on the input ports. The block has no program counter (R31), no memory (20_memory.md R50) and no mode (60_exceptions.md
R205), so State holds none.
-/

namespace Sys2Proof.Machine

/-- The values on the four data inputs at one rising edge of `clk` (10_state.md R34–R38). Each is one definite value (DEDUCED,
notes/assumptions/8.md: inputs are sampled cleanly, 70_reset_and_hazards.md R242). -/
structure Pins where
  /-- `rst`, synchronous, active high (10_state.md R34). -/
  rst : Bool
  /-- `init_state` (10_state.md R35). -/
  initState : Bool
  /-- `cmd` (10_state.md R36). -/
  cmd : Command
  /-- The unsigned number on `now_ms`, for every bus width NOW_W (10_state.md R38). DESIGN CHOICE (notes/assumptions/6.md, safe). -/
  nowMs : Nat
deriving DecidableEq, Repr

/-- The state between two edges. Every combination of field values is legal (10_state.md R32). -/
structure State where
  /-- First IIR accumulator (10_state.md R20). -/
  stage1 : Stage
  /-- Second IIR accumulator (10_state.md R21). -/
  stage2 : Stage
  /-- The debounced logical state (10_state.md R22). -/
  output : Bool
  /-- Whether the most recently accepted sample flipped `output` (10_state.md R23). -/
  changed : Bool
  /-- The tick of the last accepted RLSAMP (10_state.md R24). -/
  lastSampleTick : Tick
  /-- The Schmitt trigger's upper threshold (10_state.md R25). -/
  risingThreshold : Lane
  /-- The Schmitt trigger's lower threshold (10_state.md R26). -/
  fallingThreshold : Lane
  /-- The parameter TICK_RESET, fixed for a block (00_scope.md R8, 92_eei_decisions.md D9). No step changes it. -/
  tickReset : Tick
  /-- What the host presents at the next edge (60_exceptions.md R211). DESIGN CHOICE (notes/assumptions/1.md, safe). -/
  pins : Pins
  /-- What the host presents at the edges after that one, oldest first. DESIGN CHOICE (notes/assumptions/1.md, safe). -/
  later : List Pins
deriving DecidableEq, Repr

/-- Why the machine stops with a fault. It never does: "A model gives the block no fault outcome and no stuck outcome"
(60_exceptions.md R202), so there is no constructor. -/
inductive Fault where
deriving DecidableEq, Repr

/-- Why a step is refused. -/
inductive Refusal where
  /-- Raised by an arm of `exec` that has no meaning yet; none is left. Safe: nothing is claimed of what is refused. -/
  | notModelled (mnemonic : String)
  /-- Raised by `execReserved`, for OP = 111: "A model refuses only the reserved opcode" (60_exceptions.md R202, 30_encoding.md
  R76). Safe: the host must never issue it, and the model claims nothing about a run that does. -/
  | reservedOpcode
deriving DecidableEq, Repr

/-- What a host with nothing to do drives: `rst` and `cmd` at 0 ("a host with nothing to do drives 0", 10_state.md R36), the other
inputs as they were. DESIGN CHOICE (notes/assumptions/2.md, unsafe). -/
def Pins.idle (p : Pins) : Pins := { p with rst := false, cmd := 0x000#12 }

/-- The block right after power-on reset with `init_state` tied low, the source's default (70_reset_and_hazards.md R230, R235,
10_state.md R35), facing an idle host. DESIGN CHOICE (notes/assumptions/3.md, 4.md, 5.md): the input values, the value of
TICK_RESET, and `init_state`. -/
def State.reset : State where
  stage1 := saturated false
  stage2 := saturated false
  output := false
  changed := false
  lastSampleTick := Config.tickResetAtReset
  risingThreshold := risingDefault
  fallingThreshold := fallingDefault
  tickReset := Config.tickResetAtReset
  pins := { rst := false, initState := false, cmd := 0x000#12, nowMs := 0 }
  later := []

end Sys2Proof.Machine
end

