-- ==== Sys2Proof/Machine/Flags.lean ====
section
/-!
DEFINITION. The Schmitt trigger: which of the three cases of a filter step applies, on which the flags `output` and `changed`
depend (40_filter.md R106–R109).
-/

namespace Sys2Proof.Machine

/-- The case of a filter step. -/
inductive Transition where
  /-- Falling edge (40_filter.md R106). -/
  | falling
  /-- Rising edge (40_filter.md R107). -/
  | rising
  /-- No threshold crossed (40_filter.md R108). -/
  | hold
deriving DecidableEq, Repr

/-- The Schmitt trigger's decision: both comparisons are strict and unsigned, and `output` gives the direction (40_filter.md R106–R108). -/
def schmitt (output : Bool) (rising falling level : Lane) : Transition :=
  if output && level.ult falling then .falling
  else if !output && rising.ult level then .rising
  else .hold

end Sys2Proof.Machine
end

