-- ==== Sys2Proof/Machine/Operands.lean ====
section
/-!
DEFINITION. The values a command computes from its operands and the registers it reads (40_filter.md R100–R105, 41_rate_limiter.md
R150). Sums are taken over the natural numbers (00_scope.md R10) and narrowed to 8 bits in one place each (notes/assumptions/10.md).
-/

namespace Sys2Proof.Machine

/-- `lane(s) = {s, 1'b0}` (00_scope.md R12). -/
def lane (s : Stage) : Lane := s ++ 0#1

/-- `store(n) = n[7:1]` (00_scope.md R12). -/
def store (n : Lane) : Stage := n.extractLsb' 1 7

/-- A lane times 3/4: `(L >> 1) + (L >> 2)`, each shift flooring (40_filter.md R101, R116). -/
def decay (l : Lane) : Nat := (l.toNat >>> 1) + (l.toNat >>> 2)

/-- The stage-1 sum of a lane and a sample, before it is narrowed (40_filter.md R101). -/
def sum1 (l1 : Lane) (sample : Bool) : Nat := decay l1 + (if sample then sampleIncrement else 0)

/-- `n1`, the new stage-1 lane value (40_filter.md R101). -/
def newLane1 (l1 : Lane) (sample : Bool) : Lane := BitVec.ofNat 8 (sum1 l1 sample)

/-- The stage-2 sum of a lane, the updated stage-1 value and the output fed back, before it is narrowed (40_filter.md R102). -/
def sum2 (l2 n1 : Lane) (output : Bool) : Nat :=
  decay l2 + (n1.toNat >>> 2) + (if output then feedbackIncrement else 0)

/-- `n2`, the new stage-2 lane value (40_filter.md R102). -/
def newLane2 (l2 n1 : Lane) (output : Bool) : Lane := BitVec.ofNat 8 (sum2 l2 n1 output)

/-- `n1` of a filter step from a state (40_filter.md R100, R101). -/
def State.n1 (s : State) (sample : Bool) : Lane := newLane1 (lane s.stage1) sample

/-- `n2` of a filter step from a state (40_filter.md R100, R102). -/
def State.n2 (s : State) (sample : Bool) : Lane := newLane2 (lane s.stage2) (s.n1 sample) s.output

/-- The value the Schmitt trigger compares: all 8 bits of `n2` (40_filter.md R105). -/
def State.level (s : State) (sample : Bool) : Lane := s.n2 sample

/-- `tick = now_ms[9:2]` (41_rate_limiter.md R150). -/
def tickOf (nowMs : Nat) : Tick := BitVec.ofNat 8 (nowMs >>> 2)

/-- The tick an RLSAMP at the next edge computes (41_rate_limiter.md R150). -/
def State.tick (s : State) : Tick := tickOf s.pins.nowMs

/-- The sample-tick comparator (41_rate_limiter.md R151). -/
def State.sameTick (s : State) : Bool := s.tick == s.lastSampleTick

end Sys2Proof.Machine
end

