-- ==== Sys2Proof/Machine/Ops.lean ====
section
/-!
DEFINITION. The shared operations on the registers and on the input ports. The block takes no exception and returns from none: it
has no trap entry, saves no state and has no vector (60_exceptions.md R200, R201), so no such operation stands here.
-/

namespace Sys2Proof.Machine

/-- Power-on reset: what an edge with `rst` = 1 writes (70_reset_and_hazards.md R230). -/
def State.powerOn (s : State) : State :=
  { s with
    stage1 := saturated s.pins.initState
    stage2 := saturated s.pins.initState
    output := s.pins.initState
    changed := false
    lastSampleTick := s.tickReset
    risingThreshold := risingDefault
    fallingThreshold := fallingDefault }

/-- Load both stages with the extreme of an output value, and the two flags (40_filter.md R106, R107, R120). -/
def State.saturate (s : State) (output changed : Bool) : State :=
  { s with stage1 := saturated output, stage2 := saturated output, output := output, changed := changed }

/-- The smoothing path: store the new stage values, clear `changed` (40_filter.md R108). -/
def State.smooth (s : State) (n1 n2 : Lane) : State :=
  { s with stage1 := store n1, stage2 := store n2, changed := false }

/-- FilterStep (40_filter.md R110). -/
def State.filterStep (s : State) (sample : Bool) : State :=
  match schmitt s.output s.risingThreshold s.fallingThreshold (s.level sample) with
  | .falling => s.saturate false true
  | .rising => s.saturate true true
  | .hold => s.smooth (s.n1 sample) (s.n2 sample)

/-- The suppress path of RLSAMP (41_rate_limiter.md R153). -/
def State.suppress (s : State) : State := { s with changed := false }

/-- The accept path of RLSAMP: the tick is the one of this edge (41_rate_limiter.md R154). -/
def State.accept (s : State) (sample : Bool) : State :=
  { s.filterStep sample with lastSampleTick := s.tick }

/-- Write `rising_threshold` (42_control.md R181). -/
def State.setRising (s : State) (d : Lane) : State := { s with risingThreshold := d }

/-- Write `falling_threshold` (42_control.md R182). -/
def State.setFalling (s : State) (d : Lane) : State := { s with fallingThreshold := d }

/-- The command presented for the next edge (10_state.md R36). -/
def State.fetch (s : State) : Instr := decode s.pins.cmd

/-- The host moves on to what it drives at the following edge; with nothing scheduled it idles (notes/assumptions/1.md, 2.md). No
register is written. -/
def State.advance (s : State) : State :=
  match s.later with
  | [] => { s with pins := s.pins.idle }
  | p :: ps => { s with pins := p, later := ps }

/-- The inputs after the edge, put onto what a command answers. -/
def afterEdge (o : Host.Outcome State Fault Refusal) : Host.Outcome State Fault Refusal :=
  match o with
  | .next t => .next t.advance
  | .fault r => .fault r
  | .refused r => .refused r

/-- The block with the command word `w` presented at the next edge: `rst` is 0, as an executed command needs (10_state.md R34). -/
def State.present (s : State) (w : Command) : State :=
  { s with pins := { s.pins with rst := false, cmd := w } }

end Sys2Proof.Machine
end

