-- ==== Sys2Proof/Machine/Control.lean ====
section
/-!
DEFINITION. NOP, the threshold writes and the reserved opcode (42_control.md R180–R182, 30_encoding.md R76).
-/

namespace Sys2Proof.Machine

/-- NOP (42_control.md R180). -/
def execNop (s : State) : Host.Outcome State Fault Refusal := .next s

/-- WRISE v (42_control.md R181). -/
def execWrise (d : Lane) (s : State) : Host.Outcome State Fault Refusal := .next (s.setRising d)

/-- WFALL v (42_control.md R182). -/
def execWfall (d : Lane) (s : State) : Host.Outcome State Fault Refusal := .next (s.setFalling d)

/-- OP = 111: "A model should refuse a command with OP = 111 rather than execute it as NOP" (30_encoding.md R76; 60_exceptions.md
R202; 93_implementation_defined.md item 9). What a conforming block does is in Machine/Conforming.lean. Safe (notes/assumptions/7.md). -/
def execReserved (_s : State) : Host.Outcome State Fault Refusal := .refused .reservedOpcode

end Sys2Proof.Machine
end

