-- ==== Sys2Proof/Machine/Filter.lean ====
section
/-!
DEFINITION. The filter commands RESET, FSAMP and ASAMP (40_filter.md R120–R122).
-/

namespace Sys2Proof.Machine

/-- RESET s (40_filter.md R120). -/
def execReset (b : Bool) (s : State) : Host.Outcome State Fault Refusal := .next (s.saturate b false)

/-- FSAMP s (40_filter.md R121). -/
def execFsamp (b : Bool) (s : State) : Host.Outcome State Fault Refusal := .next (s.filterStep b)

/-- ASAMP s (40_filter.md R122). -/
def execAsamp (b : Bool) (s : State) : Host.Outcome State Fault Refusal := .next (s.filterStep b)

end Sys2Proof.Machine
end

