-- ==== Sys2Proof/Machine/RateLimiter.lean ====
section
/-!
DEFINITION. The rate-limited sample command RLSAMP (41_rate_limiter.md R155).
-/

namespace Sys2Proof.Machine

/-- RLSAMP s: the rate-limiter multiplexer selects the suppress or the accept path (41_rate_limiter.md R152, R155). -/
def execRlsamp (b : Bool) (s : State) : Host.Outcome State Fault Refusal :=
  .next (if s.sameTick then s.suppress else s.accept b)

end Sys2Proof.Machine
end

