-- ==== Sys2Proof/Machine/Dispatch.lean ====
section
/-!
DEFINITION. What each command does: one arm per constructor of Instr, each one call of its meaning.
-/

namespace Sys2Proof.Machine

def exec (i : Instr) (s : State) : Host.Outcome State Fault Refusal :=
  match i with
  | .nop => Sys2Proof.Machine.execNop s
  | .reset b => Sys2Proof.Machine.execReset b s
  | .fsamp b => Sys2Proof.Machine.execFsamp b s
  | .asamp b => Sys2Proof.Machine.execAsamp b s
  | .rlsamp b => Sys2Proof.Machine.execRlsamp b s
  | .wrise d => Sys2Proof.Machine.execWrise d s
  | .wfall d => Sys2Proof.Machine.execWfall d s
  | .reserved => Sys2Proof.Machine.execReserved s

end Sys2Proof.Machine
end

