-- ==== Sys2Proof/Machine/Step.lean ====
section
/-!
DEFINITION. One step is one rising edge of `clk` (70_reset_and_hazards.md R244): `rst` wins (60_exceptions.md R204), otherwise the
command presented is executed; then the host drives what it presents next.
-/

namespace Sys2Proof.Machine

/-- One rising edge of `clk` (10_state.md R33, R34; 60_exceptions.md R204). -/
def step (s : State) : Host.Outcome State Fault Refusal :=
  if s.pins.rst then .next s.powerOn.advance else afterEdge (exec s.fetch s)

/-- The state with the command whose bits are `w` presented at the next edge. The word is one whole word on a port (20_memory.md
R53), so `nbits` only says how many bits of `w` count. -/
def State.withFetchWord (s : State) (nbits w : Nat) : State := s.present (BitVec.ofNat 12 (w % 2 ^ nbits))

end Sys2Proof.Machine
end

