-- ==== Sys2Proof/WellFormed.lean ====
section
/-!
DEFINITION. Which commands a host may issue. The types of Instr's fields already bound every operand (a boolean, 8 bits), so the
one check is that the command is not the reserved one: "The host must not issue OP = 111" (30_encoding.md R76, 60_exceptions.md R211).
-/

namespace Sys2Proof

/-- A command a host may issue (30_encoding.md R76, R77). -/
def Instr.wellFormed : Instr → Bool
  | .nop => true
  | .reset _ => true
  | .fsamp _ => true
  | .asamp _ => true
  | .rlsamp _ => true
  | .wrise _ => true
  | .wfall _ => true
  | .reserved => false

end Sys2Proof
end

