-- ==== Sys2Proof/Machine/Assembler.lean ====
section
/-!
DEFINITION. The assembler syntax and the pseudo-commands (30_encoding.md R80, R81), over lists of characters. Purely textual: the
block sees only the words.
-/

namespace Sys2Proof.Machine

/-- Why an assembler refuses a line (30_encoding.md R80). All safe: a refused line assembles to nothing. -/
inductive AsmError where
  /-- The first word is no mnemonic. DESIGN CHOICE (notes/assumptions/19.md): R80 does not list this refusal. -/
  | unknownMnemonic
  /-- The reserved opcode. -/
  | reservedOpcode
  /-- An `s` of any other spelling than `0`, `1`, `false`, `true`. -/
  | badState
  /-- A `v` that is no integer, or is outside 0 to 255. -/
  | badValue
  /-- A `t` that is no number. -/
  | badClock
  /-- An `n` of IDLE that is no number, or is 0. -/
  | badCount
  /-- A missing operand. -/
  | missingOperand
  /-- An extra operand. -/
  | extraOperand
deriving DecidableEq, Repr

/-- What a line assembles to: a command, and for RLSAMP the `now_ms` value the host drives in the same cycle, which is no part of
the word (30_encoding.md R80). -/
structure AsmItem where
  instr : Instr
  clock : Option Nat
deriving DecidableEq, Repr

/-- A pseudo-command (30_encoding.md R81). -/
inductive Pseudo where
  | setth (r f : Lane)
  | defth
  | idle (n : Nat)
  | sample (s : Bool)
deriving DecidableEq, Repr

/-- `IDLE n` needs n >= 1 (30_encoding.md R81). -/
def Pseudo.wellFormed : Pseudo → Bool
  | .idle n => decide (1 ≤ n)
  | _ => true

/-- The commands a pseudo-command expands to, in order (30_encoding.md R81). -/
def Pseudo.expand : Pseudo → List Instr
  | .setth r f => [.wrise r, .wfall f]
  | .defth => [.wrise 0x90#8, .wfall 0x70#8]
  | .idle n => List.replicate n .nop
  | .sample s => [.asamp s]

/-- What the first word of a line names. -/
inductive AsmOp where
  | nop | reset | fsamp | asamp | rlsamp | wrise | wfall | reserved | setth | defth | idle | sample
deriving DecidableEq, Repr

/-- The mnemonics in lower case: they are case-insensitive (30_encoding.md R80). -/
def asmOps : List (List Char × AsmOp) :=
  [(['n', 'o', 'p'], .nop), (['r', 'e', 's', 'e', 't'], .reset), (['f', 's', 'a', 'm', 'p'], .fsamp),
   (['a', 's', 'a', 'm', 'p'], .asamp), (['r', 'l', 's', 'a', 'm', 'p'], .rlsamp),
   (['w', 'r', 'i', 's', 'e'], .wrise), (['w', 'f', 'a', 'l', 'l'], .wfall),
   (['r', 'e', 's', 'e', 'r', 'v', 'e', 'd'], .reserved), (['s', 'e', 't', 't', 'h'], .setth),
   (['d', 'e', 'f', 't', 'h'], .defth), (['i', 'd', 'l', 'e'], .idle),
   (['s', 'a', 'm', 'p', 'l', 'e'], .sample)]

/-- White space between the parts of a line. DESIGN CHOICE (notes/assumptions/14.md, safe). -/
def isBlank (c : Char) : Bool := c == ' ' || c == '\t' || c == '\r'

/-- A letter in lower case. -/
def lowerChar (c : Char) : Char :=
  if 65 ≤ c.toNat && c.toNat ≤ 90 then Char.ofNat (c.toNat + 32) else c

/-- A text without the white space at its ends. -/
def trimBlanks (cs : List Char) : List Char := ((cs.dropWhile isBlank).reverse.dropWhile isBlank).reverse

/-- The parts of a text between commas. -/
def splitCommas : List Char → List (List Char)
  | [] => [[]]
  | c :: cs =>
    if c == ',' then [] :: splitCommas cs
    else
      match splitCommas cs with
      | [] => [[c]]
      | p :: ps => (c :: p) :: ps

/-- The operands of a line: what follows the mnemonic, split at its commas. -/
def asmOperands (cs : List Char) : List (List Char) :=
  match trimBlanks cs with
  | [] => []
  | text => (splitCommas text).map trimBlanks

/-- The value of a digit in base 16. -/
def hexValue (c : Char) : Option Nat :=
  let n := c.toNat
  if 48 ≤ n && n ≤ 57 then some (n - 48)
  else if 65 ≤ n && n ≤ 70 then some (n - 55)
  else if 97 ≤ n && n ≤ 102 then some (n - 87)
  else none

/-- Read digits in a base, most significant first, after the digits read so far. -/
def readDigits (base : Nat) (acc : Nat) : List Char → Option Nat
  | [] => some acc
  | c :: cs =>
    match hexValue c with
    | some v => if v < base then readDigits base (acc * base + v) cs else none
    | none => none

/-- An integer in decimal or in `0x` hexadecimal (30_encoding.md R80). -/
def readNumber (cs : List Char) : Option Nat :=
  match cs with
  | [] => none
  | ['0', 'x'] => none
  | '0' :: 'x' :: ds => readDigits 16 0 ds
  | ds => readDigits 10 0 ds

/-- The operand `s`: `0`, `1`, `false` or `true` (30_encoding.md R80). -/
def readState (cs : List Char) : Except AsmError Bool :=
  if cs == ['0'] || cs == ['f', 'a', 'l', 's', 'e'] then .ok false
  else if cs == ['1'] || cs == ['t', 'r', 'u', 'e'] then .ok true
  else .error .badState

/-- The operand `v`: 0 to 255 (30_encoding.md R80). -/
def readValue (cs : List Char) : Except AsmError Lane :=
  match readNumber cs with
  | some n => if n < 256 then .ok (BitVec.ofNat 8 n) else .error .badValue
  | none => .error .badValue

/-- The operand `t`, written bare as in 30_encoding.md R80 or as `t=<n>` as in 95_test_vectors.md. DESIGN CHOICE
(notes/assumptions/14.md, safe). -/
def readClock (cs : List Char) : Except AsmError Nat :=
  match readNumber (match cs with | 't' :: '=' :: ds => ds | ds => ds) with
  | some n => .ok n
  | none => .error .badClock

/-- The operand `n` of IDLE, at least 1 (30_encoding.md R81). -/
def readCount (cs : List Char) : Except AsmError Nat :=
  match readNumber cs with
  | some n => if n = 0 then .error .badCount else .ok n
  | none => .error .badCount

/-- Exactly `n` operands (30_encoding.md R80). That an empty text between commas counts as a missing operand is a DESIGN CHOICE
(notes/assumptions/19.md, safe). -/
def checkOperands (n : Nat) (ops : List (List Char)) : Except AsmError Unit :=
  if ops.length < n || ops.any List.isEmpty then .error .missingOperand
  else if n < ops.length then .error .extraOperand
  else .ok ()

/-- Commands that come without a clock value. -/
def plainItems (is : List Instr) : List AsmItem := is.map (fun i => { instr := i, clock := none })

/-- No operand. -/
def asmNone (ops : List (List Char)) (is : List Instr) : Except AsmError (List AsmItem) :=
  match checkOperands 0 ops with
  | .ok _ => .ok (plainItems is)
  | .error e => .error e

/-- One operand, read by `read`. -/
def asmOne {α : Type} (ops : List (List Char)) (read : List Char → Except AsmError α) (is : α → List Instr) :
    Except AsmError (List AsmItem) :=
  match checkOperands 1 ops with
  | .ok _ => (read (ops.headD [])).map (fun a => plainItems (is a))
  | .error e => .error e

/-- Two operands, read by `readA` and `readB`. -/
def asmTwo {α β : Type} (ops : List (List Char)) (readA : List Char → Except AsmError α)
    (readB : List Char → Except AsmError β) (items : α → β → List AsmItem) : Except AsmError (List AsmItem) :=
  match checkOperands 2 ops with
  | .ok _ =>
    match readA (ops.headD []), readB (ops.tail.headD []) with
    | .ok a, .ok b => .ok (items a b)
    | .error e, _ => .error e
    | .ok _, .error e => .error e
  | .error e => .error e

/-- The line of a command or pseudo-command with its operands (30_encoding.md R80, R81). -/
def assembleOp (op : AsmOp) (ops : List (List Char)) : Except AsmError (List AsmItem) :=
  match op with
  | .nop => asmNone ops [.nop]
  | .reset => asmOne ops readState (fun s => [.reset s])
  | .fsamp => asmOne ops readState (fun s => [.fsamp s])
  | .asamp => asmOne ops readState (fun s => [.asamp s])
  | .rlsamp => asmTwo ops readState readClock (fun s t => [{ instr := .rlsamp s, clock := some t }])
  | .wrise => asmOne ops readValue (fun v => [.wrise v])
  | .wfall => asmOne ops readValue (fun v => [.wfall v])
  | .reserved => .error .reservedOpcode
  | .setth => asmTwo ops readValue readValue (fun r f => plainItems (Pseudo.setth r f).expand)
  | .defth => asmNone ops Pseudo.defth.expand
  | .idle => asmOne ops readCount (fun n => (Pseudo.idle n).expand)
  | .sample => asmOne ops readState (fun s => (Pseudo.sample s).expand)

/-- One line of assembler text: the mnemonic first, then the operands; `;` starts a comment that runs to the end of the line
(30_encoding.md R80). R80 speaks of one command per line and does not say what a line without one does: an empty, blank or
comment-only line is accepted and assembles to nothing, and a first word that is no mnemonic is refused. DESIGN CHOICE
(notes/assumptions/19.md, safe). -/
def assembleLine (line : List Char) : Except AsmError (List AsmItem) :=
  match (line.takeWhile (fun c => c != ';')).dropWhile isBlank with
  | [] => .ok []
  | text =>
    match asmOps.lookup ((text.takeWhile (fun c => !isBlank c)).map lowerChar) with
    | some op => assembleOp op (asmOperands (text.dropWhile (fun c => !isBlank c)))
    | none => .error .unknownMnemonic

/-- A hexadecimal digit. -/
def hexChar (v : Nat) : Char := if v < 10 then Char.ofNat (48 + v) else Char.ofNat (55 + v)

/-- A word as a listing shows it: three hex digits (30_encoding.md R80). -/
def listingWord (w : Command) : List Char :=
  ['0', 'x', hexChar (w.toNat / 256), hexChar (w.toNat / 16 % 16), hexChar (w.toNat % 16)]

/-- An operand `s` as text. -/
def stateText (s : Bool) : List Char := if s then ['1'] else ['0']

/-- An operand `v` as text. -/
def valueText (v : Lane) : List Char := ['0', 'x', hexChar (v.toNat / 16), hexChar (v.toNat % 16)]

/-- The assembler line of an item. The reserved opcode has none. -/
def AsmItem.text (a : AsmItem) : List Char :=
  match a.instr with
  | .nop => ['N', 'O', 'P']
  | .reset s => ['R', 'E', 'S', 'E', 'T', ' '] ++ stateText s
  | .fsamp s => ['F', 'S', 'A', 'M', 'P', ' '] ++ stateText s
  | .asamp s => ['A', 'S', 'A', 'M', 'P', ' '] ++ stateText s
  | .rlsamp s =>
    ['R', 'L', 'S', 'A', 'M', 'P', ' '] ++ stateText s ++ [',', ' ', 't', '='] ++ Nat.toDigits 10 (a.clock.getD 0)
  | .wrise v => ['W', 'R', 'I', 'S', 'E', ' '] ++ valueText v
  | .wfall v => ['W', 'F', 'A', 'L', 'L', ' '] ++ valueText v
  | .reserved => []

/-- A line of a listing: the canonical encoding and the command (30_encoding.md R80). -/
def AsmItem.listing (a : AsmItem) : List Char := listingWord (encode a.instr) ++ [' ', ' '] ++ a.text

end Sys2Proof.Machine
end

