-- ==== Sys2Proof/Safety.lean ====
section
/-!
DEFINITION. The terms the statements use: which sample a command folds in, what a host may drive, and the bounds every reset
block keeps.
-/

namespace Sys2Proof.Machine

/-- The sample a command folds into the filter, if it is an accepted one (00_scope.md R13 "accepted sample"): every FSAMP or ASAMP,
and an RLSAMP whose tick differs from `last_sample_tick`. -/
def acceptedSample (i : Instr) (s : State) : Option Bool :=
  match i with
  | .fsamp b => some b
  | .asamp b => some b
  | .rlsamp b => if s.sameTick then none else some b
  | .nop => none
  | .reset _ => none
  | .wrise _ => none
  | .wfall _ => none
  | .reserved => none

/-- Input values a host may drive: a reset edge, or a command it may issue (60_exceptions.md R211). -/
def Pins.permitted (p : Pins) : Bool := p.rst || (decode p.cmd).wellFormed

/-- Whether the host never issues the reserved opcode, at the next edge or later (30_encoding.md R76). -/
def State.hostPermitted (s : State) : Bool := s.pins.permitted && s.later.all Pins.permitted

/-- The bounds on stage 2 that a reset gives and every step keeps, whatever the thresholds (DEDUCED from 40_filter.md R113, whose
steady states are stage2 = 0x7B under output 0 and stage2 = 0x04 under output 1). -/
def State.levelBounded (s : State) : Prop :=
  (s.output = false → s.stage2.toNat ≤ 0x7B) ∧ (s.output = true → 0x04 ≤ s.stage2.toNat)

/-- Two states with the same seven registers (10_state.md R32). -/
def State.sameRegisters (s t : State) : Prop :=
  s.stage1 = t.stage1 ∧ s.stage2 = t.stage2 ∧ s.output = t.output ∧ s.changed = t.changed ∧
    s.lastSampleTick = t.lastSampleTick ∧ s.risingThreshold = t.risingThreshold ∧ s.fallingThreshold = t.fallingThreshold

/-- FilterStep as the pseudocode of 40_filter.md R110 writes it, over the natural numbers: the statements' yardstick for
`State.filterStep`, which follows R100–R108 lane by lane. -/
def filterStepFormula (s : State) (sample : Bool) : State :=
  let n1 := s.stage1.toNat + s.stage1.toNat / 2 + (if sample then 65 else 0)
  let n2 := s.stage2.toNat + s.stage2.toNat / 2 + n1 / 4 + (if s.output then 2 else 0)
  if s.output = true ∧ n2 < s.fallingThreshold.toNat then
    { s with output := false, changed := true, stage1 := 0x00#7, stage2 := 0x00#7 }
  else if s.output = false ∧ n2 > s.risingThreshold.toNat then
    { s with output := true, changed := true, stage1 := 0x7F#7, stage2 := 0x7F#7 }
  else { s with changed := false, stage1 := BitVec.ofNat 7 (n1 / 2), stage2 := BitVec.ofNat 7 (n2 / 2) }

/-- The level a sample command compares, as 40_filter.md R110 writes it. -/
def levelFormula (s : State) (sample : Bool) : Nat :=
  s.stage2.toNat + s.stage2.toNat / 2
    + (s.stage1.toNat + s.stage1.toNat / 2 + (if sample then 65 else 0)) / 4 + (if s.output then 2 else 0)

/-- FSAMP commands with the given samples, one after the other (40_filter.md R121). -/
def sampleRun : List Bool → State → Host.Outcome State Fault Refusal
  | [], s => .next s
  | b :: bs, s =>
    match exec (.fsamp b) s with
    | .next t => sampleRun bs t
    | .fault r => .fault r
    | .refused r => .refused r

/-- Input values that execute an RLSAMP with the sample `b` (41_rate_limiter.md R155). -/
def Pins.isRlsamp (b : Bool) (p : Pins) : Prop := p.rst = false ∧ decode p.cmd = .rlsamp b

end Sys2Proof.Machine
end

