-- ==== Sys2Proof/Machine/Conforming.lean ====
section
/-!
DEFINITION. The hardware's own behaviour, total as the spec says it is: "Every command of rule R74 completes in the cycle it is
issued" (60_exceptions.md R200), the reserved one "exactly like NOP" (30_encoding.md R76). It is written from the rules of each
command and from none of the meanings that `exec` calls, so that the statements can hold the model against it. The model's `step`
refuses the reserved command, as R76 and R202 ask of a model; here the block executes it.
-/

namespace Sys2Proof.Machine

/-- What a conforming block does with a command, rule by rule. -/
def conformingExec (i : Instr) (s : State) : State :=
  match i with
  | .nop => s -- 42_control.md R180
  | .reset b => -- 40_filter.md R120
    { s with stage1 := if b then 0x7F#7 else 0x00#7, stage2 := if b then 0x7F#7 else 0x00#7, output := b, changed := false }
  | .fsamp b => filterStepFormula s b -- 40_filter.md R110, R121
  | .asamp b => filterStepFormula s b -- 40_filter.md R110, R122
  | .rlsamp b => -- 41_rate_limiter.md R150-R155
    if s.pins.nowMs / 4 % 256 = s.lastSampleTick.toNat then { s with changed := false }
    else { filterStepFormula s b with lastSampleTick := BitVec.ofNat 8 (s.pins.nowMs / 4 % 256) }
  | .wrise d => { s with risingThreshold := d } -- 42_control.md R181
  | .wfall d => { s with fallingThreshold := d } -- 42_control.md R182
  | .reserved => s -- 30_encoding.md R76

/-- What a conforming block writes at an edge with `rst` = 1 (70_reset_and_hazards.md R230). -/
def conformingReset (s : State) : State :=
  { s with
    stage1 := if s.pins.initState then 0x7F#7 else 0x00#7
    stage2 := if s.pins.initState then 0x7F#7 else 0x00#7
    output := s.pins.initState
    changed := false
    lastSampleTick := s.tickReset
    risingThreshold := 0x90#8
    fallingThreshold := 0x70#8 }

/-- One rising edge of a conforming block (60_exceptions.md R200, R204), before the same host as the model's. -/
def conformingStep (s : State) : State :=
  State.advance (if s.pins.rst then conformingReset s else conformingExec (decode s.pins.cmd) s)

/-- `k` rising edges of a conforming block. -/
def conformingRun : Nat → State → State
  | 0, s => s
  | k + 1, s => conformingRun k (conformingStep s)

end Sys2Proof.Machine
end

