-- ==== Sys2Proof/Machine/Instances.lean ====
section
/-!
DEFINITION. Several instances, one per input channel: the product of single-instance models, on one clock or on several
(20_memory.md R59; 60_exceptions.md R208, R212).
-/

namespace Sys2Proof.Machine

/-- One instance of several: it runs, or it is where a refused command left the model of it. -/
inductive Channel where
  /-- The instance is in a state. -/
  | running (s : State)
  /-- The model of this instance refused its command; the others go on. -/
  | stopped (r : Refusal)
deriving DecidableEq, Repr

/-- One instance, with an edge of its own clock or without one: without an edge every register holds its value (10_state.md R33). -/
def Channel.clocked (edge : Bool) (c : Channel) : Channel :=
  match c with
  | .stopped r => .stopped r
  | .running s =>
    if edge then
      match step s with
      | .next t => .running t
      | .fault r => nomatch r
      | .refused r => .stopped r
    else .running s

/-- All instances at one moment: `edges` says which of their clocks rises (60_exceptions.md R212). An instance without an entry in
`edges` has no edge. -/
def clockBank : List Bool → List Channel → List Channel
  | _, [] => []
  | [], cs => cs
  | e :: es, c :: cs => c.clocked e :: clockBank es cs

/-- All instances over a sequence of moments. -/
def runBank (moments : List (List Bool)) (bank : List Channel) : List Channel :=
  moments.foldl (fun b edges => clockBank edges b) bank

end Sys2Proof.Machine
end

