-- ==== Sys2Proof/Machine/Ports.lean ====
section
/-!
DEFINITION. The output ports (10_state.md R39–R41): functions of the state, read without side effect (42_control.md R184).
-/

namespace Sys2Proof.Machine

/-- `state_out` (10_state.md R39). -/
def State.stateOut (s : State) : Bool := s.output

/-- `changed_out` (10_state.md R40). -/
def State.changedOut (s : State) : Bool := s.changed

/-- `rise_th_out` (10_state.md R41). -/
def State.riseThOut (s : State) : Lane := s.risingThreshold

/-- `fall_th_out` (10_state.md R41). -/
def State.fallThOut (s : State) : Lane := s.fallingThreshold

end Sys2Proof.Machine
end

