-- ==== Sys2Proof/Machine/Views.lean ====
section
/-!
DEFINITION. The source's packed form of the filter, an equivalent view (40_filter.md R104; 93_implementation_defined.md item 1): both
lanes in one 16-bit word, all 8 bits of each kept from step to step (R111). No port shows it (20_memory.md R52).
-/

namespace Sys2Proof.Machine

/-- The packed computation, step by step (40_filter.md R104). -/
def packedSum (f : BitVec 16) (sample output : Bool) : BitVec 16 :=
  let decayed := ((f >>> 1) &&& 0x7F7F#16) + ((f >>> 2) &&& 0x3F3F#16)
  let sampled := if sample then decayed + 65#16 else decayed
  let fed := sampled + ((sampled <<< 6) &&& 0x3F00#16)
  if output then fed + 0x0200#16 else fed

/-- The filter with its stages in one word: stage 2's lane in bits [15:8], stage 1's in bits [7:0] (40_filter.md R104). -/
structure PackedFilter where
  word : BitVec 16
  output : Bool
  changed : Bool
deriving DecidableEq, Repr

/-- A filter step of the packed form: the level is the high byte of the computed word, and the word is kept whole (40_filter.md
R105, R111). -/
def PackedFilter.step (rising falling : Lane) (f : PackedFilter) (sample : Bool) : PackedFilter :=
  let sum := packedSum f.word sample f.output
  match schmitt f.output rising falling (sum.extractLsb' 8 8) with
  | .falling => { word := 0x0000#16, output := false, changed := true }
  | .rising => { word := 0xFEFE#16, output := true, changed := true }
  | .hold => { word := sum, output := f.output, changed := false }

/-- The packed filter stands for a state: the upper seven bits of its lanes are the stages, whatever bits 0 and 8 are (40_filter.md
R104). -/
def PackedFilter.represents (f : PackedFilter) (s : State) : Prop :=
  f.word.extractLsb' 9 7 = s.stage2 ∧ f.word.extractLsb' 1 7 = s.stage1 ∧ f.output = s.output ∧ f.changed = s.changed

end Sys2Proof.Machine
end

