-- ==== Sys2Proof/Certificates/Slice0/Obligations.lean ====
section
/-!
DEFINITION. The statements for the provers. Each docstring names the rule of spec/ it formalises.
-/

open Sys2Proof Sys2Proof.Machine

/-! ## Reset and the edge -/

/-- 70_reset_and_hazards.md R230: what an edge with `rst` = 1 writes, every register by its value, for every TICK_RESET and every
`init_state`; and its first four writes are those of RESET `init_state`. -/
def Obligations.PowerOnEdgeWritesEveryRegister : Prop :=
  ∀ s : State, s.pins.rst = true →
    step s = .next (State.advance { s with
      stage1 := if s.pins.initState then 0x7F#7 else 0x00#7
      stage2 := if s.pins.initState then 0x7F#7 else 0x00#7
      output := s.pins.initState
      changed := false
      lastSampleTick := s.tickReset
      risingThreshold := 0x90#8
      fallingThreshold := 0x70#8 }) ∧
    ∃ u, exec (.reset s.pins.initState) s = .next u ∧
      step s = .next (State.advance { u with
        lastSampleTick := s.tickReset, risingThreshold := 0x90#8, fallingThreshold := 0x70#8 })

/-- 70_reset_and_hazards.md R231 (with 60_exceptions.md R204 item 1): at a reset edge neither `cmd` nor `now_ms` matters, nor does
any register; and after several reset edges in a row the registers are those of the last edge's `init_state` alone. -/
def Obligations.HeldResetKeepsLastInitState : Prop :=
  (∀ (s t : State) (c : Command) (n : Nat), s.pins.rst = true →
    t.tickReset = s.tickReset → t.pins = { s.pins with cmd := c, nowMs := n } →
    ∃ u v, step s = .next u ∧ step t = .next v ∧ u.sameRegisters v) ∧
  (∀ (s : State) (ps rest : List Pins), s.pins.rst = true → (∀ p ∈ ps, p.rst = true) → s.later = ps ++ rest →
    ∃ t : State, Host.Core.run core (ps.length + 1) s = .next t ∧
      t.sameRegisters (State.powerOn { s with pins := ps.getLastD s.pins }))

/-- 70_reset_and_hazards.md R232: the first edge with `rst` = 0 after a reset edge executes the command presented at it. -/
def Obligations.FirstEdgeAfterResetExecutes : Prop :=
  ∀ (s : State) (p : Pins) (ps : List Pins), s.pins.rst = true → s.later = p :: ps → p.rst = false →
    ∃ t, step s = .next t ∧ t.pins = p ∧ t.later = ps ∧ t.sameRegisters s.powerOn ∧
      (∀ u, exec (decode p.cmd) t = .next u → step t = .next u.advance) ∧
      (∀ r, exec (decode p.cmd) t = .refused r → step t = .refused r)

/-- 70_reset_and_hazards.md R230, R234, for `init_state` = 0: the registers of `State.reset`. That `init_state` is low there, and
which TICK_RESET the block has, are the model's choices (notes/assumptions/4.md, 5.md); no value of TICK_RESET is claimed. -/
def Obligations.ResetStateHasTheResetValues : Prop :=
  State.reset.stage1 = 0x00#7 ∧ State.reset.stage2 = 0x00#7 ∧ State.reset.output = false ∧ State.reset.changed = false ∧
    State.reset.lastSampleTick = State.reset.tickReset ∧ State.reset.risingThreshold = 0x90#8 ∧
    State.reset.fallingThreshold = 0x70#8

/-- 10_state.md R34, R36: an edge with `rst` = 0 executes the command presented, in a step of its own. Around the command the step
only moves the host's inputs on (notes/assumptions/1.md, 2.md); the registers are as the command left them. -/
def Obligations.StepRunsThePresentedCommand : Prop :=
  (∀ s : State, s.pins.rst = false →
    (∀ t, exec (decode s.pins.cmd) s = .next t → step s = .next t.advance) ∧
    (∀ r, exec (decode s.pins.cmd) s = .refused r → step s = .refused r)) ∧
  (∀ t : State, t.advance.sameRegisters t ∧ t.advance.tickReset = t.tickReset ∧
    (∀ p ps, t.later = p :: ps → t.advance.pins = p ∧ t.advance.later = ps) ∧
    (t.later = [] → t.advance.later = [] ∧
      t.advance.pins = { t.pins with rst := false, cmd := 0x000#12 }))

/-! ## The commands -/

/-- 42_control.md R180: NOP, for every word of its row, writes no register. -/
def Obligations.NopWritesNothing : Prop :=
  (∀ w : Command, w &&& 0x007#12 = 0x000#12 → decode w = .nop) ∧
  (∀ s : State, exec .nop s = .next s)

/-- 40_filter.md R120: RESET s, for every word of its row; what it writes, what it keeps, and that it is idempotent. -/
def Obligations.ResetCommandLoadsTheExtreme : Prop :=
  (∀ w : Command, w &&& 0x007#12 = 0x001#12 → decode w = .reset (w.getLsbD 3)) ∧
  (∀ (s : State) (b : Bool),
    exec (.reset b) s = .next { s with
      stage1 := if b then 0x7F#7 else 0x00#7
      stage2 := if b then 0x7F#7 else 0x00#7
      output := b
      changed := false }) ∧
  (∀ (s t : State) (b : Bool), exec (.reset b) s = .next t →
    exec (.reset b) t = .next t ∧ t.stateOut = b ∧ t.changedOut = false)

/-- 40_filter.md R110 (with R101, R102, R106–R108): FSAMP is the filter step of the pseudocode, written over the natural numbers;
every register it does not name keeps its value. -/
def Obligations.FsampIsTheFilterStep : Prop :=
  (∀ w : Command, w &&& 0x007#12 = 0x002#12 → decode w = .fsamp (w.getLsbD 3)) ∧
  (∀ (s : State) (b : Bool), exec (.fsamp b) s = .next (filterStepFormula s b))

/-- 40_filter.md R122: ASAMP, for every word of its row, has the effect of FSAMP; it reads no `now_ms` and keeps the tick. -/
def Obligations.AsampActsAsFsamp : Prop :=
  (∀ w : Command, w &&& 0x007#12 = 0x003#12 → decode w = .asamp (w.getLsbD 3)) ∧
  (∀ (s : State) (b : Bool),
    exec (.asamp b) s = .next (filterStepFormula s b) ∧ exec (.asamp b) s = exec (.fsamp b) s ∧
    (filterStepFormula s b).lastSampleTick = s.lastSampleTick ∧
    (∀ n, exec (.asamp b) { s with pins := { s.pins with nowMs := n } } =
      .next { filterStepFormula s b with pins := { s.pins with nowMs := n } }))

/-- 41_rate_limiter.md R155: RLSAMP, for every word of its row, with its corner cases on the tick and right after power-on reset. -/
def Obligations.RlsampComparesTheTick : Prop :=
  (∀ w : Command, w &&& 0x007#12 = 0x004#12 → decode w = .rlsamp (w.getLsbD 3)) ∧
  (∀ (s : State) (b : Bool),
    exec (.rlsamp b) s = .next (
      if BitVec.ofNat 8 (s.pins.nowMs / 4) = s.lastSampleTick then { s with changed := false }
      else { filterStepFormula s b with lastSampleTick := BitVec.ofNat 8 (s.pins.nowMs / 4) })) ∧
  tickOf 0x3FF = 0xFF#8 ∧ tickOf 0x400 = 0x00#8 ∧ (∀ n, tickOf (n + 1024) = tickOf n) ∧
  (∀ (s : State) (b : Bool), acceptedSample (.rlsamp b) s.powerOn = none ↔ tickOf s.pins.nowMs = s.tickReset)

/-- 41_rate_limiter.md R151–R154: exactly one path, chosen by equality of the tick with the register as it was before the edge; the
accept path is FSAMP's effect and the tick together. -/
def Obligations.RateLimiterTakesOnePath : Prop :=
  ∀ (s : State) (b : Bool),
    (tickOf s.pins.nowMs = s.lastSampleTick → exec (.rlsamp b) s = .next { s with changed := false }) ∧
    (tickOf s.pins.nowMs ≠ s.lastSampleTick →
      ∃ u, exec (.fsamp b) s = .next u ∧
        exec (.rlsamp b) s = .next { u with lastSampleTick := tickOf s.pins.nowMs })

/-- 42_control.md R181: WRISE v, for every word of its row, stores D whole, shows it at `rise_th_out`, and writes nothing else. -/
def Obligations.WriseStoresTheOperand : Prop :=
  (∀ w : Command, w &&& 0x007#12 = 0x005#12 → decode w = .wrise (w.extractLsb' 4 8)) ∧
  (∀ (s : State) (d : Lane), ∃ t, exec (.wrise d) s = .next t ∧ t = { s with risingThreshold := d } ∧ t.riseThOut = d)

/-- 42_control.md R182: WFALL v, for every word of its row, stores D whole, shows it at `fall_th_out`, and writes nothing else. -/
def Obligations.WfallStoresTheOperand : Prop :=
  (∀ w : Command, w &&& 0x007#12 = 0x006#12 → decode w = .wfall (w.extractLsb' 4 8)) ∧
  (∀ (s : State) (d : Lane), ∃ t, exec (.wfall d) s = .next t ∧ t = { s with fallingThreshold := d } ∧ t.fallThOut = d)

/-- 30_encoding.md R76: the model refuses every word with OP = 111, and the conforming block leaves the state as NOP does. -/
def Obligations.ReservedOpcodeIsRefused : Prop :=
  (∀ w : Command, w &&& 0x007#12 = 0x007#12 → decode w = .reserved) ∧
  (∀ s : State, exec .reserved s = .refused .reservedOpcode ∧
    exec .nop s = .next (conformingExec .reserved s))

/-- 40_filter.md R121, the corner cases from the two reset states, for every threshold: after RESET 0 the first FSAMP 1 rises up to
`rising_threshold` 0x0F and FSAMP 0 never; after RESET 1 the first FSAMP 0 falls from `falling_threshold` 0xF0 on and FSAMP 1 never. -/
def Obligations.FirstSampleAfterResetCommand : Prop :=
  ∀ s t : State,
    (exec (.reset false) s = .next t →
      (∃ u, exec (.fsamp true) t = .next u ∧ (u.output = true ↔ s.risingThreshold.toNat ≤ 0x0F)) ∧
      exec (.fsamp false) t = .next t) ∧
    (exec (.reset true) s = .next t →
      (∃ u, exec (.fsamp false) t = .next u ∧ (u.output = false ↔ 0xF0 ≤ s.fallingThreshold.toNat)) ∧
      exec (.fsamp true) t = .next t)

/-! ## Which steps write which register -/

/-- 10_state.md R25: only a reset edge (0x90) and WRISE (its operand, any of the 256 values) write `rising_threshold`. -/
def Obligations.RisingThresholdWriters : Prop :=
  (∀ s t : State, step s = .next t →
    t.risingThreshold = (if s.pins.rst then 0x90#8 else
      match decode s.pins.cmd with
      | .wrise d => d
      | _ => s.risingThreshold) ∧
    t.riseThOut = t.risingThreshold) ∧
  (∀ (s : State) (d : Lane), s.pins.rst = false → decode s.pins.cmd = .wrise d →
    ∃ t, step s = .next t ∧ t.risingThreshold = d)

/-- 10_state.md R26: only a reset edge (0x70) and WFALL (its operand, any of the 256 values) write `falling_threshold`; whatever
pair of thresholds stands, a sample completes. -/
def Obligations.FallingThresholdWriters : Prop :=
  (∀ s t : State, step s = .next t →
    t.fallingThreshold = (if s.pins.rst then 0x70#8 else
      match decode s.pins.cmd with
      | .wfall d => d
      | _ => s.fallingThreshold) ∧
    t.fallThOut = t.fallingThreshold) ∧
  (∀ (s : State) (d : Lane), s.pins.rst = false → decode s.pins.cmd = .wfall d →
    ∃ t, step s = .next t ∧ t.fallingThreshold = d) ∧
  (∀ (s : State) (b : Bool), ∃ t, exec (.fsamp b) s = .next t)

/-- 10_state.md R24: a reset edge loads `last_sample_tick` with TICK_RESET, an accepted RLSAMP with its tick, and nothing else
writes it. -/
def Obligations.TickWriters : Prop :=
  ∀ s t : State, step s = .next t →
    (s.pins.rst = true → t.lastSampleTick = s.tickReset) ∧
    (∀ b, s.pins.rst = false → decode s.pins.cmd = .rlsamp b →
      (acceptedSample (.rlsamp b) s = some b → t.lastSampleTick = BitVec.ofNat 8 (s.pins.nowMs / 4)) ∧
      (acceptedSample (.rlsamp b) s = none → t.lastSampleTick = s.lastSampleTick)) ∧
    (s.pins.rst = false → (∀ b, decode s.pins.cmd ≠ .rlsamp b) → t.lastSampleTick = s.lastSampleTick)

/-- 10_state.md R23: who writes `changed`. An accepted sample writes whether it flipped `output`; a reset edge, RESET and a
suppressed RLSAMP write 0; NOP, WRISE and WFALL keep it. `changed_out` shows it. -/
def Obligations.ChangedWriters : Prop :=
  ∀ s t : State, step s = .next t →
    t.changedOut = t.changed ∧
    (s.pins.rst = true → t.changed = false) ∧
    (s.pins.rst = false →
      match decode s.pins.cmd with
      | .nop => t.changed = s.changed
      | .wrise _ => t.changed = s.changed
      | .wfall _ => t.changed = s.changed
      | .reset _ => t.changed = false
      | .fsamp _ => t.changed = (t.output != s.output)
      | .asamp _ => t.changed = (t.output != s.output)
      | .rlsamp b =>
        (acceptedSample (.rlsamp b) s = some b → t.changed = (t.output != s.output)) ∧
        (acceptedSample (.rlsamp b) s = none → t.changed = false)
      | .reserved => False)

/-- 10_state.md R22: who writes `output`. A reset edge loads `init_state`, RESET its operand, an accepted sample what the Schmitt
trigger says of the level, in which the output before the step is the feedback term; everything else keeps it. `state_out` shows
it. -/
def Obligations.OutputWriters : Prop :=
  ∀ s t : State, step s = .next t →
    t.stateOut = t.output ∧
    (s.pins.rst = true → t.output = s.pins.initState) ∧
    (∀ b, s.pins.rst = false → decode s.pins.cmd = .reset b → t.output = b) ∧
    (∀ b, s.pins.rst = false → acceptedSample (decode s.pins.cmd) s = some b →
      (s.output = true → (t.output = false ↔ levelFormula s b < s.fallingThreshold.toNat)) ∧
      (s.output = false → (t.output = true ↔ s.risingThreshold.toNat < levelFormula s b))) ∧
    (s.pins.rst = false → (∀ b, decode s.pins.cmd ≠ .reset b) → acceptedSample (decode s.pins.cmd) s = none →
      t.output = s.output)

/-- 10_state.md R27, R30 and the write column of its state table: a command that is neither RESET nor an accepted sample keeps both
stages and `output`. -/
def Obligations.FilterStateFrame : Prop :=
  ∀ (i : Instr) (s t : State), (∀ b, i ≠ .reset b) → acceptedSample i s = none → exec i s = .next t →
    t.stage1 = s.stage1 ∧ t.stage2 = s.stage2 ∧ t.output = s.output

/-- The frame of every command that completes: the parameter, the inputs and what the host drives later are no command's business;
RESET and the samples keep both thresholds, RESET and every sample but an accepted RLSAMP keep the tick, and the threshold writes
keep all but their own register (40_filter.md R110, R120; 42_control.md R181, R182). -/
def Obligations.CommandFrame : Prop :=
  ∀ (i : Instr) (s t : State), exec i s = .next t →
    t.tickReset = s.tickReset ∧ t.pins = s.pins ∧ t.later = s.later ∧
    ((∀ d, i ≠ .wrise d) → t.risingThreshold = s.risingThreshold) ∧
    ((∀ d, i ≠ .wfall d) → t.fallingThreshold = s.fallingThreshold) ∧
    ((∀ b, i = .rlsamp b → s.sameTick = true) → t.lastSampleTick = s.lastSampleTick) ∧
    ((∃ d, i = .wrise d ∨ i = .wfall d) →
      t.stage1 = s.stage1 ∧ t.stage2 = s.stage2 ∧ t.output = s.output ∧ t.changed = s.changed ∧
      t.lastSampleTick = s.lastSampleTick)

/-! ## Completion and refusal -/

/-- 60_exceptions.md R202: every step produces a next state, but for the reserved opcode, which alone is refused; no step faults. -/
def Obligations.OnlyTheReservedOpcodeIsRefused : Prop :=
  ∀ s : State,
    (∃ t, step s = .next t) ∧ ¬ (s.pins.rst = false ∧ s.pins.cmd &&& 0x007#12 = 0x007#12) ∨
    step s = .refused .reservedOpcode ∧ s.pins.rst = false ∧ s.pins.cmd &&& 0x007#12 = 0x007#12

/-- 60_exceptions.md R200, R211: while the host never issues OP 111, no step stops and what the host drives stays permitted; so every
run of every length completes, from every state. For a run within what `later` schedules this is the rules' own; past the end of
`later` the host idles, which is the model's choice (DESIGN CHOICE, unsafe, notes/assumptions/2.md), and the statement rests on it. -/
def Obligations.PermittedRunsNeverStop : Prop :=
  (∀ s : State, s.hostPermitted = true → ∃ t, step s = .next t ∧ t.hostPermitted = true) ∧
  (∀ (k : Nat) (s : State), s.hostPermitted = true →
    ∃ t : State, Host.Core.run core k s = .next t ∧ t.hostPermitted = true)

/-- 60_exceptions.md R200, 30_encoding.md R76: the conforming block, written from the rules of the commands (40_filter.md R110, R120;
41_rate_limiter.md R150–R155; 42_control.md R180–R182) and of the reset edge (70_reset_and_hazards.md R230), does what the model does.
Every command a host may issue answers the block's next state; a run of the model that completes is the block's run; and an edge that
the model refuses executes OP 111, at which the block keeps every register. Both sides face one host, which idles past the end of
`later` (the model's choice, notes/assumptions/2.md). -/
def Obligations.ModelRefinesTheConformingBlock : Prop :=
  (∀ (i : Instr) (s : State), i.wellFormed = true → exec i s = .next (conformingExec i s)) ∧
  (∀ (k : Nat) (s t : State), Host.Core.run core k s = .next t → conformingRun k s = t) ∧
  (∀ (s : State) (r : Refusal), step s = .refused r →
    decode s.pins.cmd = .reserved ∧ (conformingStep s).sameRegisters s)

/-! ## Encoding -/

/-- 30_encoding.md R70–R75: decoding the encoding of a command, with every operand at every value, gives the command back; and the
words that decode to it are exactly those that agree with that encoding in the bits their row reads. -/
def Obligations.DecodeOfEncode : Prop :=
  (∀ i : Instr, decode (encode i) = i) ∧
  (∀ (w : Command) (i : Instr), decode w = i ↔ w &&& usedBits (w.extractLsb' 0 3) = encode i)

/-- 30_encoding.md R75: a word decodes as the same word with its ignored bits 0: D is ignored but for WRISE and WFALL, S but for
RESET and the samples, OP never; that word is the canonical encoding; with the rule's three examples. -/
def Obligations.IgnoredBitsHaveNoEffect : Prop :=
  (∀ w : Command, decode w = decode (w &&& usedBits (w.extractLsb' 0 3)) ∧
    encode (decode w) = w &&& usedBits (w.extractLsb' 0 3)) ∧
  [0, 1, 2, 3, 4, 5, 6, 7].map (fun n => usedBits (BitVec.ofNat 3 n)) =
    [0x007#12, 0x00F#12, 0x00F#12, 0x00F#12, 0x00F#12, 0xFF7#12, 0xFF7#12, 0x007#12] ∧
  encode .nop = 0x000#12 ∧ encode (.fsamp true) = 0x00A#12 ∧ encode (.wrise 0x90#8) = 0x905#12

/-- 30_encoding.md R74: the eight rows partition all 4096 words, and the decoder takes each word to its one row's command. -/
def Obligations.OpcodeMapPartitionsTheWords : Prop :=
  opcodeMap.length = 8 ∧
  ∀ w : Command, ∃ r ∈ opcodeMap, (w &&& r.mask = r.value ∧ r.mnemonic = (decode w).mnemonic) ∧
    ∀ q ∈ opcodeMap, w &&& q.mask = q.value → q = r

/-- Words written out in the spec with the commands they stand for: 95_test_vectors.md sections 1.2, 2.5, 2.7, 2.8, 30_encoding.md
R75, and the examples of 40_filter.md R122 (0x003) and 42_control.md R182 (0x606). -/
def Obligations.SampleWordsDecode : Prop :=
  decode 0x000#12 = .nop ∧ decode 0xAB8#12 = .nop ∧ decode 0x009#12 = .reset true ∧ decode 0xFF1#12 = .reset false ∧
    decode 0x00A#12 = .fsamp true ∧ decode 0x003#12 = .asamp false ∧ decode 0x00C#12 = .rlsamp true ∧
    decode 0xA05#12 = .wrise 0xA0#8 ∧ decode 0x00D#12 = .wrise 0x00#8 ∧ decode 0x606#12 = .wfall 0x60#8

/-! ## The filter's arithmetic -/

/-- 40_filter.md R103: neither sum exceeds 8 bits, so narrowing loses nothing, and the maxima are reached exactly. -/
def Obligations.FilterSumsNeverWrap : Prop :=
  (∀ (s : State) (b : Bool),
    (s.n1 b).toNat = s.stage1.toNat + s.stage1.toNat / 2 + (if b then 65 else 0) ∧
    (s.n2 b).toNat = levelFormula s b) ∧
  (∀ s : State, s.stage1 = 0x7F#7 → s.n1 true = 0xFF#8) ∧
  (∀ (s : State) (b : Bool), s.stage2 = 0x7F#7 → 252 ≤ (s.n1 b).toNat → s.output = true → s.n2 b = 0xFF#8)

/-- 40_filter.md R104: the packed 16-bit sequence ends with `{n2, n1}`, whatever bits 0 and 8 of the word are. -/
def Obligations.PackedSumIsBothLanes : Prop :=
  ∀ (s : State) (f : BitVec 16) (b : Bool),
    f.extractLsb' 9 7 = s.stage2 → f.extractLsb' 1 7 = s.stage1 →
    packedSum f b s.output = s.n2 b ++ s.n1 b

/-- 40_filter.md R111, R104: a filter that keeps its full 8-bit lanes, packed in one word, gives the same `output` and `changed` as
the 7-bit registers after every sequence of samples, at all thresholds. -/
def Obligations.PackedFilterAgrees : Prop :=
  ∀ (bs : List Bool) (s : State) (f : PackedFilter), f.represents s →
    ∃ t, sampleRun bs s = .next t ∧
      (bs.foldl (PackedFilter.step s.risingThreshold s.fallingThreshold) f).represents t

/-- 40_filter.md R109: exactly one of the three cases applies to each sample, and the threshold of the other direction is not read. -/
def Obligations.OneThresholdIsRead : Prop :=
  (∀ (s : State) (b : Bool),
    let falls := s.output = true ∧ levelFormula s b < s.fallingThreshold.toNat
    let rises := s.output = false ∧ s.risingThreshold.toNat < levelFormula s b
    ∃ t, exec (.fsamp b) s = .next t ∧
      (falls ∧ ¬ rises ∧ t.output = false ∧ t.changed = true ∨
        rises ∧ ¬ falls ∧ t.output = true ∧ t.changed = true ∨
        ¬ falls ∧ ¬ rises ∧ t.output = s.output ∧ t.changed = false)) ∧
  (∀ (s t : State) (b : Bool) (th : Lane), exec (.fsamp b) s = .next t →
    (s.output = true →
      exec (.fsamp b) { s with risingThreshold := th } = .next { t with risingThreshold := th }) ∧
    (s.output = false →
      exec (.fsamp b) { s with fallingThreshold := th } = .next { t with fallingThreshold := th }))

/-- 40_filter.md R112: the two saturated states are fixed points under their own sample, whatever the thresholds; `n1`, `n2` as the
rule gives them. -/
def Obligations.SaturatedStatesAreFixed : Prop :=
  (∀ s : State, s.stage1 = 0x7F#7 → s.stage2 = 0x7F#7 → s.output = true →
    s.n1 true = 255#8 ∧ s.n2 true = 255#8 ∧ exec (.fsamp true) s = .next { s with changed := false }) ∧
  (∀ s : State, s.stage1 = 0x00#7 → s.stage2 = 0x00#7 → s.output = false →
    s.n1 false = 0#8 ∧ s.n2 false = 0#8 ∧ exec (.fsamp false) s = .next { s with changed := false })

/-- 40_filter.md R114: from either reset state at the default threshold, whatever the other registers hold, a constant opposite
sample flips `output` at the seventh filter step and at none before; the levels of steps 1 to 7. -/
def Obligations.SeventhSampleFlipsAtDefaults : Prop :=
  (∀ s : State, s.stage1 = 0x00#7 → s.stage2 = 0x00#7 → s.output = false → s.risingThreshold = 0x90#8 →
    (∀ k : Fin 7, ∃ t, sampleRun (List.replicate k.val true) s = .next t ∧ t.output = false ∧
      (t.level true).toNat = [16, 40, 67, 93, 118, 141, 161].getD k.val 0) ∧
    (∃ t, sampleRun (List.replicate 7 true) s = .next t ∧ t.output = true ∧ t.changed = true)) ∧
  (∀ s : State, s.stage1 = 0x7F#7 → s.stage2 = 0x7F#7 → s.output = true → s.fallingThreshold = 0x70#8 →
    (∀ k : Fin 7, ∃ t, sampleRun (List.replicate k.val false) s = .next t ∧ t.output = true ∧
      (t.level false).toNat = [239, 215, 188, 162, 137, 114, 94].getD k.val 0) ∧
    (∃ t, sampleRun (List.replicate 7 false) s = .next t ∧ t.output = false ∧ t.changed = true))

/-- 40_filter.md R115: a command that flips `output` leaves the filter as RESET would for the new output, but for `changed`; at the
default thresholds fewer than seven opposite samples never flip it back. -/
def Obligations.TransitionSaturatesTheFilter : Prop :=
  ∀ (i : Instr) (b : Bool) (s t : State), acceptedSample i s = some b → exec i s = .next t → t.output ≠ s.output →
    (∃ u, exec (.reset t.output) s = .next u ∧ t.stage1 = u.stage1 ∧ t.stage2 = u.stage2 ∧ t.output = u.output ∧
      t.changed = true) ∧
    (s.risingThreshold = 0x90#8 → s.fallingThreshold = 0x70#8 →
      ∀ k, k < 7 → ∃ v, sampleRun (List.replicate k (!t.output)) t = .next v ∧ v.output = t.output)

/-! ## The reachable levels -/

/-- DEDUCED from 40_filter.md R113: every step keeps the bounds on stage 2, at every threshold and whatever the host drives. -/
def Obligations.StepKeepsLevelBounds : Prop :=
  ∀ s t : State, s.levelBounded → step s = .next t → t.levelBounded

/-- The bounds on stage 2 (DEDUCED from 40_filter.md R113, the model's predicate, notes/assumptions/17.md) hold at `State.reset`, and
after any reset edge (70_reset_and_hazards.md R230) and any RESET (40_filter.md R120), from every state: both load stage 2 with an
extreme of the output. -/
def Obligations.ResetGivesLevelBounds : Prop :=
  State.reset.levelBounded ∧
  ∀ s t : State, step s = .next t → (s.pins.rst = true ∨ ∃ b, decode s.pins.cmd = .reset b) → t.levelBounded

/-- 40_filter.md R113: once a reset has been given, every step with output 0 has a level of at most 247 and every step with output 1
one of at least 8, whatever the host drives and however many edges later; so a `rising_threshold` of 0xF7 or more never lets the
output rise and a `falling_threshold` of 0x08 or less never lets it fall. Past the end of `later` the edges are idle ones, the
model's choice (notes/assumptions/2.md); every schedule of every length is covered. -/
def Obligations.LevelsStayInReach : Prop :=
  ∀ (k : Nat) (s t u : State), s.pins.rst = true ∨ (∃ b, decode s.pins.cmd = .reset b) → step s = .next t →
    Host.Core.run core k t = .next u →
    (∀ b, (u.output = false → (u.level b).toNat ≤ 247) ∧ (u.output = true → 8 ≤ (u.level b).toNat)) ∧
    (∀ i b v, acceptedSample i u = some b → exec i u = .next v →
      (0xF7 ≤ u.risingThreshold.toNat → u.output = false → v.output = false) ∧
      (u.fallingThreshold.toNat ≤ 0x08 → u.output = true → v.output = true))

/-! ## The rate limiter -/

/-- 41_rate_limiter.md R150: the tick is bits [9:2] of `now_ms`; no other bit matters, for a bus of any width from 10 on; its
windows are aligned. -/
def Obligations.TickIsBitsNineToTwo : Prop :=
  (∀ n, (tickOf n).toNat = n / 4 % 256) ∧
  (∀ w n, Config.minNowWidth ≤ w → tickOf (n % 2 ^ w) = tickOf n) ∧
  (∀ n m, (∀ j, 2 ≤ j → j ≤ 9 → n.testBit j = m.testBit j) → tickOf n = tickOf m) ∧
  (∀ k n, 4 * k ≤ n → n ≤ 4 * k + 3 → (tickOf n).toNat = k % 256)

/-- 10_state.md R38, 20_memory.md R55: only RLSAMP samples `now_ms`, and of it only the tick; every other command completes alike
whatever the bus carries. -/
def Obligations.OnlyRlsampReadsTheClock : Prop :=
  ∀ (i : Instr) (s t : State) (n : Nat), exec i s = .next t →
    ((∀ b, i ≠ .rlsamp b) ∨ tickOf n = tickOf s.pins.nowMs) →
    exec i { s with pins := { s.pins with nowMs := n } } = .next { t with pins := { s.pins with nowMs := n } }

/-- 41_rate_limiter.md R157: when two clock values give equal ticks, by the gap between them. -/
def Obligations.TicksAliasByWindowDistance : Prop :=
  (∀ t1 t2 : Nat, t1 ≤ t2 →
    (tickOf t1 = tickOf t2 ↔ 256 ∣ t2 / 4 - t1 / 4) ∧
    (4 ≤ t2 - t1 → t2 - t1 ≤ 1020 → tickOf t1 ≠ tickOf t2) ∧
    (1024 ∣ t2 - t1 → tickOf t1 = tickOf t2)) ∧
  (∀ g, g ≤ 3 → ∃ t1, tickOf t1 = tickOf (t1 + g)) ∧
  (∃ t1, tickOf t1 = tickOf (t1 + 1021))

/-- 41_rate_limiter.md R158: of a run of RLSAMPs in one aligned window, with any samples, none after the first is accepted, and the
first only if the window's tick differs from the register; every later one leaves `changed` = 0. -/
def Obligations.SamplesInOneWindowCoalesce : Prop :=
  ∀ (s : State) (ps rest : List Pins) (k : Nat),
    (∀ p ∈ s.pins :: ps, (∃ b, p.isRlsamp b) ∧ 4 * k ≤ p.nowMs ∧ p.nowMs ≤ 4 * k + 3) → s.later = ps ++ rest →
    ((∃ b, acceptedSample s.fetch s = some b) ↔ k % 256 ≠ s.lastSampleTick.toNat) ∧
    ∀ j, j < ps.length → ∃ u v : State, Host.Core.run core (j + 1) s = .next u ∧ acceptedSample u.fetch u = none ∧
      step u = .next v ∧ v.changed = false ∧ v.stage1 = u.stage1 ∧ v.stage2 = u.stage2 ∧ v.output = u.output

/-- 41_rate_limiter.md R159: no command but RLSAMP reads or writes `last_sample_tick`, so whether an RLSAMP of the same clock is
suppressed is not changed by them; and an FSAMP in an accepted RLSAMP's own tick still folds its sample. -/
def Obligations.OtherCommandsIgnoreTheTick : Prop :=
  (∀ (i : Instr) (s t : State), (∀ b, i ≠ .rlsamp b) → exec i s = .next t →
    t.lastSampleTick = s.lastSampleTick ∧
    (∀ b, (acceptedSample (.rlsamp b) t = none ↔ acceptedSample (.rlsamp b) s = none)) ∧
    (∀ x, exec i { s with lastSampleTick := x } = .next { t with lastSampleTick := x })) ∧
  (∀ (s t : State) (b c : Bool), acceptedSample (.rlsamp b) s = some b → exec (.rlsamp b) s = .next t →
    exec (.fsamp c) t = .next (filterStepFormula t c))

/-- 41_rate_limiter.md R160: the first RLSAMP after a reset edge, whatever other commands come between, is suppressed exactly when
its tick is TICK_RESET, for every TICK_RESET. -/
def Obligations.FirstRlsampAfterPowerOn : Prop :=
  ∀ (s : State) (qs : List Pins) (p : Pins) (ps : List Pins) (b : Bool), s.pins.rst = true →
    (∀ q ∈ qs, q.rst = false ∧ (decode q.cmd).wellFormed = true ∧ ∀ c, decode q.cmd ≠ .rlsamp c) →
    s.later = qs ++ p :: ps → p.isRlsamp b →
    ∃ t u : State, Host.Core.run core (qs.length + 1) s = .next t ∧ t.pins = p ∧ step t = .next u ∧
      (acceptedSample t.fetch t = none ↔ tickOf p.nowMs = s.tickReset) ∧
      (tickOf p.nowMs = s.tickReset → u.sameRegisters { t with changed := false })

/-- 41_rate_limiter.md R161: from a saturated state of the opposite output at the default thresholds, whatever the tick register
holds, RLSAMPs of one sample on a non-decreasing clock flip the output only when at least 21 ms lie between the first clock value
and the last. -/
def Obligations.RateLimitedFlipTakesTwentyOneMs : Prop :=
  ∀ (s : State) (ps : List Pins) (b : Bool),
    s.stage1 = (if b then 0x00#7 else 0x7F#7) → s.stage2 = (if b then 0x00#7 else 0x7F#7) → s.output = !b →
    s.risingThreshold = 0x90#8 → s.fallingThreshold = 0x70#8 →
    (∀ p ∈ s.pins :: ps, p.isRlsamp b) → (s.pins :: ps).Pairwise (fun p q => p.nowMs ≤ q.nowMs) → s.later = ps →
    ∃ t : State, Host.Core.run core (ps.length + 1) s = .next t ∧
      (t.output = b → 21 ≤ (ps.getLastD s.pins).nowMs - s.pins.nowMs)

/-- 41_rate_limiter.md R161, the upper bound: if besides the first RLSAMP is accepted and the host issues one in every window, the
output has flipped exactly when the seventh window is reached, and the edge that flips it is at most 27 ms after the first. -/
def Obligations.RateLimitedFlipComesInTheSeventhWindow : Prop :=
  ∀ (s : State) (ps : List Pins) (b : Bool),
    s.stage1 = (if b then 0x00#7 else 0x7F#7) → s.stage2 = (if b then 0x00#7 else 0x7F#7) → s.output = !b →
    s.risingThreshold = 0x90#8 → s.fallingThreshold = 0x70#8 →
    (∀ p ∈ s.pins :: ps, p.isRlsamp b) → acceptedSample s.fetch s = some b →
    (s.pins :: ps).Pairwise (fun p q => p.nowMs ≤ q.nowMs) →
    (∀ n, s.pins.nowMs / 4 ≤ n → n ≤ (ps.getLastD s.pins).nowMs / 4 → ∃ p ∈ s.pins :: ps, p.nowMs / 4 = n) → s.later = ps →
    ∃ t : State, Host.Core.run core (ps.length + 1) s = .next t ∧
      (t.output = b ↔ s.pins.nowMs / 4 + 6 ≤ (ps.getLastD s.pins).nowMs / 4) ∧
      (t.changed = true → 21 ≤ (ps.getLastD s.pins).nowMs - s.pins.nowMs ∧ (ps.getLastD s.pins).nowMs - s.pins.nowMs ≤ 27)

/-! ## Flags, thresholds and instances -/

/-- 10_state.md R28 (with R23): `changed` is read by nothing but its port. RESET and every sample answer the same state whatever
`changed` held, a suppressed RLSAMP included; NOP, WRISE and WFALL only carry it over, and nothing else they answer depends on it. -/
def Obligations.ChangedIsNotRead : Prop :=
  ∀ (i : Instr) (s t : State) (c : Bool), exec i s = .next t →
    match i with
    | .nop => t.changed = s.changed ∧ exec i { s with changed := c } = .next { t with changed := c }
    | .wrise _ => t.changed = s.changed ∧ exec i { s with changed := c } = .next { t with changed := c }
    | .wfall _ => t.changed = s.changed ∧ exec i { s with changed := c } = .next { t with changed := c }
    | .reset _ => exec i { s with changed := c } = .next t
    | .fsamp _ => exec i { s with changed := c } = .next t
    | .asamp _ => exec i { s with changed := c } = .next t
    | .rlsamp _ => exec i { s with changed := c } = .next t
    | .reserved => False

/-- 70_reset_and_hazards.md R241: a threshold written at one edge is the one an accepted sample at the next edge is compared with, by
whichever command it comes (FSAMP, ASAMP, an accepted RLSAMP). -/
def Obligations.WrittenThresholdIsUsedNext : Prop :=
  ∀ (s : State) (p : Pins) (ps : List Pins) (d : Lane),
    s.pins.rst = false → s.later = p :: ps → p.rst = false →
    (decode s.pins.cmd = .wrise d → s.output = false →
      ∃ t, step s = .next t ∧ t.pins = p ∧
        ∀ b, acceptedSample (decode p.cmd) t = some b →
          ∃ u, step t = .next u ∧ (u.output = true ↔ d.toNat < levelFormula s b)) ∧
    (decode s.pins.cmd = .wfall d → s.output = true →
      ∃ t, step s = .next t ∧ t.pins = p ∧
        ∀ b, acceptedSample (decode p.cmd) t = some b →
          ∃ u, step t = .next u ∧ (u.output = false ↔ levelFormula s b < d.toNat))

/-- 60_exceptions.md R212, R208: after any sequence of moments an instance is where its own start and its own clock edges took it,
whatever the others are and do; without an edge it holds. -/
def Obligations.ChannelsAreIndependent : Prop :=
  ∀ (ms ns : List (List Bool)) (xs ys : List Channel) (k : Nat),
    xs[k]? = ys[k]? → ms.map (fun m => m.getD k false) = ns.map (fun m => m.getD k false) →
    (runBank ms xs)[k]? = (runBank ns ys)[k]? ∧
    ((∀ m ∈ ms, m.getD k false = false) → (runBank ms xs)[k]? = xs[k]?)

/-! ## Assembler -/

/-- 30_encoding.md R81: what each pseudo-command expands to, and the words of it. -/
def Obligations.PseudoCommandsExpand : Prop :=
  (∀ r f : Lane, (Pseudo.setth r f).expand.map encode = [r ++ 0x5#4, f ++ 0x6#4]) ∧
  Pseudo.defth.expand = (Pseudo.setth 0x90#8 0x70#8).expand ∧
  (∀ n, 1 ≤ n → (Pseudo.idle n).expand.map encode = List.replicate n 0x000#12) ∧
  (∀ s, (Pseudo.sample s).expand = [.asamp s])

/-- 30_encoding.md R80: the line that writes out a command assembles to that command, with every operand at every value and, for
RLSAMP, every clock value. -/
def Obligations.AssemblingTheTextGivesTheCommand : Prop :=
  ∀ (i : Instr) (t : Nat), i.wellFormed = true →
    assembleLine (AsmItem.text { instr := i, clock := some t }) =
      .ok [{ instr := i, clock := (match i with | .rlsamp _ => some t | _ => none) }]
end

