-- ==== Sys2Proof/Laws/State.lean ====
section
/-!
SUPPORT. One lemma per field per update of State: what each named update writes, and what it keeps.
-/

namespace Sys2Proof.Machine

@[simp] theorem State.powerOn_stage1 (s : State) : (s.powerOn).stage1 = saturated s.pins.initState := rfl
@[simp] theorem State.powerOn_stage2 (s : State) : (s.powerOn).stage2 = saturated s.pins.initState := rfl
@[simp] theorem State.powerOn_output (s : State) : (s.powerOn).output = s.pins.initState := rfl
@[simp] theorem State.powerOn_changed (s : State) : (s.powerOn).changed = false := rfl
@[simp] theorem State.powerOn_lastSampleTick (s : State) : (s.powerOn).lastSampleTick = s.tickReset := rfl
@[simp] theorem State.powerOn_risingThreshold (s : State) : (s.powerOn).risingThreshold = risingDefault := rfl
@[simp] theorem State.powerOn_fallingThreshold (s : State) : (s.powerOn).fallingThreshold = fallingDefault := rfl
@[simp] theorem State.powerOn_tickReset (s : State) : (s.powerOn).tickReset = s.tickReset := rfl
@[simp] theorem State.powerOn_pins (s : State) : (s.powerOn).pins = s.pins := rfl
@[simp] theorem State.powerOn_later (s : State) : (s.powerOn).later = s.later := rfl

@[simp] theorem State.saturate_stage1 (s : State) (o c : Bool) : (s.saturate o c).stage1 = saturated o := rfl
@[simp] theorem State.saturate_stage2 (s : State) (o c : Bool) : (s.saturate o c).stage2 = saturated o := rfl
@[simp] theorem State.saturate_output (s : State) (o c : Bool) : (s.saturate o c).output = o := rfl
@[simp] theorem State.saturate_changed (s : State) (o c : Bool) : (s.saturate o c).changed = c := rfl
@[simp] theorem State.saturate_lastSampleTick (s : State) (o c : Bool) : (s.saturate o c).lastSampleTick = s.lastSampleTick := rfl
@[simp] theorem State.saturate_risingThreshold (s : State) (o c : Bool) : (s.saturate o c).risingThreshold = s.risingThreshold := rfl
@[simp] theorem State.saturate_fallingThreshold (s : State) (o c : Bool) : (s.saturate o c).fallingThreshold = s.fallingThreshold := rfl
@[simp] theorem State.saturate_tickReset (s : State) (o c : Bool) : (s.saturate o c).tickReset = s.tickReset := rfl
@[simp] theorem State.saturate_pins (s : State) (o c : Bool) : (s.saturate o c).pins = s.pins := rfl
@[simp] theorem State.saturate_later (s : State) (o c : Bool) : (s.saturate o c).later = s.later := rfl

@[simp] theorem State.smooth_stage1 (s : State) (n1 n2 : Lane) : (s.smooth n1 n2).stage1 = store n1 := rfl
@[simp] theorem State.smooth_stage2 (s : State) (n1 n2 : Lane) : (s.smooth n1 n2).stage2 = store n2 := rfl
@[simp] theorem State.smooth_output (s : State) (n1 n2 : Lane) : (s.smooth n1 n2).output = s.output := rfl
@[simp] theorem State.smooth_changed (s : State) (n1 n2 : Lane) : (s.smooth n1 n2).changed = false := rfl
@[simp] theorem State.smooth_lastSampleTick (s : State) (n1 n2 : Lane) : (s.smooth n1 n2).lastSampleTick = s.lastSampleTick := rfl
@[simp] theorem State.smooth_risingThreshold (s : State) (n1 n2 : Lane) : (s.smooth n1 n2).risingThreshold = s.risingThreshold := rfl
@[simp] theorem State.smooth_fallingThreshold (s : State) (n1 n2 : Lane) : (s.smooth n1 n2).fallingThreshold = s.fallingThreshold := rfl
@[simp] theorem State.smooth_tickReset (s : State) (n1 n2 : Lane) : (s.smooth n1 n2).tickReset = s.tickReset := rfl
@[simp] theorem State.smooth_pins (s : State) (n1 n2 : Lane) : (s.smooth n1 n2).pins = s.pins := rfl
@[simp] theorem State.smooth_later (s : State) (n1 n2 : Lane) : (s.smooth n1 n2).later = s.later := rfl

@[simp] theorem State.suppress_stage1 (s : State) : (s.suppress).stage1 = s.stage1 := rfl
@[simp] theorem State.suppress_stage2 (s : State) : (s.suppress).stage2 = s.stage2 := rfl
@[simp] theorem State.suppress_output (s : State) : (s.suppress).output = s.output := rfl
@[simp] theorem State.suppress_changed (s : State) : (s.suppress).changed = false := rfl
@[simp] theorem State.suppress_lastSampleTick (s : State) : (s.suppress).lastSampleTick = s.lastSampleTick := rfl
@[simp] theorem State.suppress_risingThreshold (s : State) : (s.suppress).risingThreshold = s.risingThreshold := rfl
@[simp] theorem State.suppress_fallingThreshold (s : State) : (s.suppress).fallingThreshold = s.fallingThreshold := rfl
@[simp] theorem State.suppress_tickReset (s : State) : (s.suppress).tickReset = s.tickReset := rfl
@[simp] theorem State.suppress_pins (s : State) : (s.suppress).pins = s.pins := rfl
@[simp] theorem State.suppress_later (s : State) : (s.suppress).later = s.later := rfl

@[simp] theorem State.setRising_stage1 (s : State) (d : Lane) : (s.setRising d).stage1 = s.stage1 := rfl
@[simp] theorem State.setRising_stage2 (s : State) (d : Lane) : (s.setRising d).stage2 = s.stage2 := rfl
@[simp] theorem State.setRising_output (s : State) (d : Lane) : (s.setRising d).output = s.output := rfl
@[simp] theorem State.setRising_changed (s : State) (d : Lane) : (s.setRising d).changed = s.changed := rfl
@[simp] theorem State.setRising_lastSampleTick (s : State) (d : Lane) : (s.setRising d).lastSampleTick = s.lastSampleTick := rfl
@[simp] theorem State.setRising_risingThreshold (s : State) (d : Lane) : (s.setRising d).risingThreshold = d := rfl
@[simp] theorem State.setRising_fallingThreshold (s : State) (d : Lane) : (s.setRising d).fallingThreshold = s.fallingThreshold := rfl
@[simp] theorem State.setRising_tickReset (s : State) (d : Lane) : (s.setRising d).tickReset = s.tickReset := rfl
@[simp] theorem State.setRising_pins (s : State) (d : Lane) : (s.setRising d).pins = s.pins := rfl
@[simp] theorem State.setRising_later (s : State) (d : Lane) : (s.setRising d).later = s.later := rfl

@[simp] theorem State.setFalling_stage1 (s : State) (d : Lane) : (s.setFalling d).stage1 = s.stage1 := rfl
@[simp] theorem State.setFalling_stage2 (s : State) (d : Lane) : (s.setFalling d).stage2 = s.stage2 := rfl
@[simp] theorem State.setFalling_output (s : State) (d : Lane) : (s.setFalling d).output = s.output := rfl
@[simp] theorem State.setFalling_changed (s : State) (d : Lane) : (s.setFalling d).changed = s.changed := rfl
@[simp] theorem State.setFalling_lastSampleTick (s : State) (d : Lane) : (s.setFalling d).lastSampleTick = s.lastSampleTick := rfl
@[simp] theorem State.setFalling_risingThreshold (s : State) (d : Lane) : (s.setFalling d).risingThreshold = s.risingThreshold := rfl
@[simp] theorem State.setFalling_fallingThreshold (s : State) (d : Lane) : (s.setFalling d).fallingThreshold = d := rfl
@[simp] theorem State.setFalling_tickReset (s : State) (d : Lane) : (s.setFalling d).tickReset = s.tickReset := rfl
@[simp] theorem State.setFalling_pins (s : State) (d : Lane) : (s.setFalling d).pins = s.pins := rfl
@[simp] theorem State.setFalling_later (s : State) (d : Lane) : (s.setFalling d).later = s.later := rfl

@[simp] theorem State.present_stage1 (s : State) (w : Command) : (s.present w).stage1 = s.stage1 := rfl
@[simp] theorem State.present_stage2 (s : State) (w : Command) : (s.present w).stage2 = s.stage2 := rfl
@[simp] theorem State.present_output (s : State) (w : Command) : (s.present w).output = s.output := rfl
@[simp] theorem State.present_changed (s : State) (w : Command) : (s.present w).changed = s.changed := rfl
@[simp] theorem State.present_lastSampleTick (s : State) (w : Command) : (s.present w).lastSampleTick = s.lastSampleTick := rfl
@[simp] theorem State.present_risingThreshold (s : State) (w : Command) : (s.present w).risingThreshold = s.risingThreshold := rfl
@[simp] theorem State.present_fallingThreshold (s : State) (w : Command) : (s.present w).fallingThreshold = s.fallingThreshold := rfl
@[simp] theorem State.present_tickReset (s : State) (w : Command) : (s.present w).tickReset = s.tickReset := rfl
@[simp] theorem State.present_pins (s : State) (w : Command) : (s.present w).pins = { s.pins with rst := false, cmd := w } := rfl
@[simp] theorem State.present_later (s : State) (w : Command) : (s.present w).later = s.later := rfl

@[simp] theorem State.filterStep_lastSampleTick (s : State) (b : Bool) : (s.filterStep b).lastSampleTick = s.lastSampleTick := by
  unfold State.filterStep; split <;> rfl
@[simp] theorem State.filterStep_risingThreshold (s : State) (b : Bool) : (s.filterStep b).risingThreshold = s.risingThreshold := by
  unfold State.filterStep; split <;> rfl
@[simp] theorem State.filterStep_fallingThreshold (s : State) (b : Bool) : (s.filterStep b).fallingThreshold = s.fallingThreshold := by
  unfold State.filterStep; split <;> rfl
@[simp] theorem State.filterStep_tickReset (s : State) (b : Bool) : (s.filterStep b).tickReset = s.tickReset := by
  unfold State.filterStep; split <;> rfl
@[simp] theorem State.filterStep_pins (s : State) (b : Bool) : (s.filterStep b).pins = s.pins := by
  unfold State.filterStep; split <;> rfl
@[simp] theorem State.filterStep_later (s : State) (b : Bool) : (s.filterStep b).later = s.later := by
  unfold State.filterStep; split <;> rfl

@[simp] theorem State.accept_stage1 (s : State) (b : Bool) : (s.accept b).stage1 = (s.filterStep b).stage1 := rfl
@[simp] theorem State.accept_stage2 (s : State) (b : Bool) : (s.accept b).stage2 = (s.filterStep b).stage2 := rfl
@[simp] theorem State.accept_output (s : State) (b : Bool) : (s.accept b).output = (s.filterStep b).output := rfl
@[simp] theorem State.accept_changed (s : State) (b : Bool) : (s.accept b).changed = (s.filterStep b).changed := rfl
@[simp] theorem State.accept_lastSampleTick (s : State) (b : Bool) : (s.accept b).lastSampleTick = s.tick := rfl
@[simp] theorem State.accept_risingThreshold (s : State) (b : Bool) : (s.accept b).risingThreshold = s.risingThreshold := by simp [State.accept]
@[simp] theorem State.accept_fallingThreshold (s : State) (b : Bool) : (s.accept b).fallingThreshold = s.fallingThreshold := by simp [State.accept]
@[simp] theorem State.accept_tickReset (s : State) (b : Bool) : (s.accept b).tickReset = s.tickReset := by simp [State.accept]
@[simp] theorem State.accept_pins (s : State) (b : Bool) : (s.accept b).pins = s.pins := by simp [State.accept]
@[simp] theorem State.accept_later (s : State) (b : Bool) : (s.accept b).later = s.later := by simp [State.accept]

@[simp] theorem State.advance_stage1 (s : State) : s.advance.stage1 = s.stage1 := by
  unfold State.advance; split <;> rfl
@[simp] theorem State.advance_stage2 (s : State) : s.advance.stage2 = s.stage2 := by
  unfold State.advance; split <;> rfl
@[simp] theorem State.advance_output (s : State) : s.advance.output = s.output := by
  unfold State.advance; split <;> rfl
@[simp] theorem State.advance_changed (s : State) : s.advance.changed = s.changed := by
  unfold State.advance; split <;> rfl
@[simp] theorem State.advance_lastSampleTick (s : State) : s.advance.lastSampleTick = s.lastSampleTick := by
  unfold State.advance; split <;> rfl
@[simp] theorem State.advance_risingThreshold (s : State) : s.advance.risingThreshold = s.risingThreshold := by
  unfold State.advance; split <;> rfl
@[simp] theorem State.advance_fallingThreshold (s : State) : s.advance.fallingThreshold = s.fallingThreshold := by
  unfold State.advance; split <;> rfl
@[simp] theorem State.advance_tickReset (s : State) : s.advance.tickReset = s.tickReset := by
  unfold State.advance; split <;> rfl

theorem State.advance_of_cons (s : State) (p : Pins) (ps : List Pins) (h : s.later = p :: ps) :
    s.advance = { s with pins := p, later := ps } := by simp [State.advance, h]

theorem State.advance_of_nil (s : State) (h : s.later = []) : s.advance = { s with pins := s.pins.idle } := by
  simp [State.advance, h]

end Sys2Proof.Machine
end

