-- ==== Sys2Proof/Laws/Ops.lean ====
section
/-!
SUPPORT. What each shared operation, each command and a step can do, said once each, so that later proofs cite these lemmas and
unfold nothing.
-/

namespace Sys2Proof.Machine

theorem lane_toNat (s : Stage) : (lane s).toNat = 2 * s.toNat :=
  (BitVec.toNat_append s 0#1).trans (by simp [Nat.shiftLeft_eq, Nat.mul_comm])

theorem store_toNat (n : Lane) : (store n).toNat = n.toNat / 2 := by
  have := n.isLt
  simp [store, BitVec.extractLsb'_toNat, Nat.shiftRight_eq_div_pow]
  omega

theorem decay_lane (s : Stage) : decay (lane s) = s.toNat + s.toNat / 2 := by
  simp only [decay, lane_toNat, Nat.shiftRight_eq_div_pow]
  omega

theorem tickOf_toNat (n : Nat) : (tickOf n).toNat = n / 4 % 256 := by
  simp [tickOf, Nat.shiftRight_eq_div_pow]

/-- The three cases of the Schmitt trigger (40_filter.md R109). -/
theorem schmitt_cases (o : Bool) (rising falling level : Lane) :
    (o = true ∧ level.toNat < falling.toNat ∧ schmitt o rising falling level = .falling) ∨
    (o = false ∧ rising.toNat < level.toNat ∧ schmitt o rising falling level = .rising) ∨
    ((o = true → falling.toNat ≤ level.toNat) ∧ (o = false → level.toNat ≤ rising.toNat) ∧
      schmitt o rising falling level = .hold) := by
  cases o <;> simp only [schmitt, BitVec.ult, Bool.true_and, Bool.false_and, Bool.not_true, Bool.not_false]
  · by_cases h : rising.toNat < level.toNat <;> simp [h]
    omega
  · by_cases h : level.toNat < falling.toNat <;> simp [h]
    omega

/-- Everything a filter step can do (40_filter.md R106–R108). -/
theorem State.filterStep_cases (s : State) (b : Bool) :
    (s.output = true ∧ (s.level b).toNat < s.fallingThreshold.toNat ∧ s.filterStep b = s.saturate false true) ∨
    (s.output = false ∧ s.risingThreshold.toNat < (s.level b).toNat ∧ s.filterStep b = s.saturate true true) ∨
    ((s.output = true → s.fallingThreshold.toNat ≤ (s.level b).toNat) ∧
      (s.output = false → (s.level b).toNat ≤ s.risingThreshold.toNat) ∧
      s.filterStep b = s.smooth (s.n1 b) (s.n2 b)) := by
  rcases schmitt_cases s.output s.risingThreshold s.fallingThreshold (s.level b) with
    ⟨h1, h2, h⟩ | ⟨h1, h2, h⟩ | ⟨h1, h2, h⟩
  · exact .inl ⟨h1, h2, by simp [State.filterStep, h]⟩
  · exact .inr (.inl ⟨h1, h2, by simp [State.filterStep, h]⟩)
  · exact .inr (.inr ⟨h1, h2, by simp [State.filterStep, h]⟩)

/-- The inputs after a completed command. -/
theorem afterEdge_next {o : Host.Outcome State Fault Refusal} {t : State} (h : afterEdge o = .next t) :
    ∃ u, o = .next u ∧ t = u.advance := by
  cases o with
  | next u => exact ⟨u, rfl, by simpa [afterEdge] using h.symm⟩
  | fault r => cases h
  | refused r => cases h

/-- Everything a command that completes can do. -/
theorem exec_next_cases {i : Instr} {s t : State} (h : exec i s = .next t) :
    (i = .nop ∧ t = s) ∨ (∃ b, i = .reset b ∧ t = s.saturate b false) ∨
    (∃ b, (i = .fsamp b ∨ i = .asamp b) ∧ t = s.filterStep b) ∨
    (∃ b, i = .rlsamp b ∧ s.sameTick = true ∧ t = s.suppress) ∨
    (∃ b, i = .rlsamp b ∧ s.sameTick = false ∧ t = s.accept b) ∨
    (∃ d, i = .wrise d ∧ t = s.setRising d) ∨ (∃ d, i = .wfall d ∧ t = s.setFalling d) := by
  cases i with
  | nop => cases h; simp
  | reset b => cases h; simp
  | fsamp b => cases h; simp
  | asamp b => cases h; simp
  | rlsamp b =>
    cases hs : s.sameTick <;> simp only [exec, execRlsamp, hs] at h <;> cases h <;> simp
  | wrise d => cases h; simp
  | wfall d => cases h; simp
  | reserved => cases h

/-- Everything a step that completes can do. -/
theorem step_next_cases {s t : State} (h : step s = .next t) :
    (s.pins.rst = true ∧ t = s.powerOn.advance) ∨
    (s.pins.rst = false ∧ ∃ u, exec s.fetch s = .next u ∧ t = u.advance) := by
  unfold step at h
  split at h
  · next hr => exact .inl ⟨hr, by cases h; rfl⟩
  · next hr => exact .inr ⟨by simpa using hr, afterEdge_next h⟩

end Sys2Proof.Machine
end

