-- ==== Sys2Proof/Laws/PerInstr.lean ====
section
/-!
SUPPORT. One lemma per constructor of Instr: its canonical encoding has its row's opcode and every ignored bit 0 (30_encoding.md
R74, R75).
-/

namespace Sys2Proof.Laws

/-- The canonical word of a command has the command's opcode, and no bit outside those the command reads. -/
def CanonicalWord.Statement (i : Instr) : Prop :=
  encode i &&& usedBits (opField (encode i)) = encode i ∧
    (opcodeMap.filter (fun r => r.covers (encode i))).map OpcodeRow.mnemonic = [i.mnemonic]

theorem CanonicalWord.nop : CanonicalWord.Statement .nop := by unfold CanonicalWord.Statement; decide
theorem CanonicalWord.reset (s : Bool) : CanonicalWord.Statement (.reset s) := by unfold CanonicalWord.Statement; revert s; decide
theorem CanonicalWord.fsamp (s : Bool) : CanonicalWord.Statement (.fsamp s) := by unfold CanonicalWord.Statement; revert s; decide
theorem CanonicalWord.asamp (s : Bool) : CanonicalWord.Statement (.asamp s) := by unfold CanonicalWord.Statement; revert s; decide
theorem CanonicalWord.rlsamp (s : Bool) : CanonicalWord.Statement (.rlsamp s) := by unfold CanonicalWord.Statement; revert s; decide
theorem CanonicalWord.wrise (d : Lane) : CanonicalWord.Statement (.wrise d) := by
  unfold CanonicalWord.Statement
  revert d
  decide
theorem CanonicalWord.wfall (d : Lane) : CanonicalWord.Statement (.wfall d) := by
  unfold CanonicalWord.Statement
  revert d
  decide
theorem CanonicalWord.reserved : CanonicalWord.Statement .reserved := by unfold CanonicalWord.Statement; decide

end Sys2Proof.Laws
end

