-- ==== Sys2Proof/Tests/Slice0.lean ====
section
/-!
SUPPORT. Tests. Expected values come from spec/95_test_vectors.md and the examples of the rules, section by section; the witnesses
show that each statement's hypotheses can be met together, clause by clause, at the edges of their ranges.
-/

namespace Sys2Proof.Tests

open Sys2Proof.Machine

/-- A state as 95_test_vectors.md writes one, with an idle host. -/
def at7 (s1 s2 : Nat) (out ch : Bool) (tick rise fall : Nat) : State :=
  { State.reset with
    stage1 := BitVec.ofNat 7 s1, stage2 := BitVec.ofNat 7 s2, output := out, changed := ch
    lastSampleTick := BitVec.ofNat 8 tick, risingThreshold := BitVec.ofNat 8 rise
    fallingThreshold := BitVec.ofNat 8 fall }

/-- Inputs of an edge that executes a word. -/
def edge (cmd now : Nat) : Pins := { rst := false, initState := false, cmd := BitVec.ofNat 12 cmd, nowMs := now }

/-- Inputs of a reset edge, with a command that is ignored. -/
def resetEdge (init : Bool) : Pins := { rst := true, initState := init, cmd := 0x00A#12, nowMs := 9 }

/-- A state with the inputs of the next edge and of the later ones. -/
def driven (s : State) (p : Pins) (ps : List Pins) : State := { s with pins := p, later := ps }

/-- What a step leaves in the seven registers, if it completes. -/
def registersAfter (o : Host.Outcome State Fault Refusal) : Option State :=
  match o with
  | .next t => some { t with pins := State.reset.pins, later := [] }
  | .fault _ => none
  | .refused _ => none

/-! ## Decoding: words written out from 30_encoding.md R70–R75 -/

/-- R75, 95 section 2.8 rows 1, 2. -/
theorem test_decode_nop : decode 0b000000000000#12 = .nop ∧ decode 0b101010111000#12 = .nop := by decide

/-- 95 sections 1.2, 2.5 (0xFF1 has every D bit set). -/
theorem test_decode_reset : decode 0b000000001001#12 = .reset true ∧ decode 0b111111110001#12 = .reset false := by decide

/-- R75: `FSAMP 1` is 0x00A. -/
theorem test_decode_samples :
    decode 0b000000001010#12 = .fsamp true ∧ decode 0b000000000011#12 = .asamp false ∧
      decode 0b000000001100#12 = .rlsamp true := by decide

/-- 95 section 2.8 rows 3–6. -/
theorem test_decode_thresholds :
    decode 0b101000000101#12 = .wrise 0xA0#8 ∧ decode 0b000000001101#12 = .wrise 0x00#8 ∧
      decode 0b111111110110#12 = .wfall 0xFF#8 := by decide

/-- R76, 95 section 2.8 row 7. -/
theorem test_decode_reserved : decode 0b000000000111#12 = .reserved := by decide

/-- R70: a number with a bit above bit 11 is no command. -/
theorem test_decode_number_too_wide : decodeNumber 0x100A = .error .notTwelveBits ∧ decodeTableWord 16 0x100A = none := ⟨rfl, rfl⟩

/-- The host's question, for a row given in whole bytes. -/
theorem test_decode_table_word : decodeTableWord 16 0x00A = some (.fsamp true) := by decide

/-- R76: the one ill-formed command. -/
theorem test_reserved_is_ill_formed : Instr.wellFormed .reserved = false ∧ Instr.wellFormed (.wrise 0xFF#8) = true := by decide

/-- R81: `IDLE n` needs n >= 1. -/
theorem test_idle_zero_is_ill_formed : Pseudo.wellFormed (.idle 0) = false ∧ Pseudo.wellFormed (.idle 1) = true := by decide

/-! ## The machine as the host drives it -/

/-- A presented word is what the first step after reset executes. -/
theorem test_first_command_runs :
    registersAfter (step (State.reset.withFetchWord 16 0x00A)) = some (at7 0x20 0x08 false false 0 0x90 0x70) := by decide

/-- The reserved word is refused by its own name. -/
theorem test_first_reserved_refused : step (State.reset.withFetchWord 16 0x007) = .refused .reservedOpcode := rfl

/-- 95 section 2.8 row 8: `rst` = 1, `init_state` = 1, TICK_RESET = 0x5A. -/
theorem test_power_on_high :
    registersAfter (step (driven { at7 0x12 0x34 false true 0x05 0xA0 0x30 with tickReset := 0x5A#8 } (resetEdge true) [])) =
      some { at7 0x7F 0x7F true false 0x5A 0x90 0x70 with tickReset := 0x5A#8 } := by decide

/-! ## Commands, one step each -/

/-- 95 section 2.8 row 2. -/
theorem test_nop :
    registersAfter (step (driven (at7 0 0 false true 5 0x90 0x70) (edge 0xAB8 0) [])) = some (at7 0 0 false true 5 0x90 0x70) := by
  decide

/-- 95 section 1.2 row 2. -/
theorem test_reset_true :
    registersAfter (step (driven (at7 0x35 0x5E true true 0x12 0x90 0x70) (edge 0x009 0) [])) =
      some (at7 0x7F 0x7F true false 0x12 0x90 0x70) := by decide

/-- 95 section 2.5 row 2. -/
theorem test_reset_false :
    registersAfter (step (driven (at7 0x7F 0x7F true true 0x33 0xA0 0x40) (edge 0x001 0) [])) =
      some (at7 0 0 false false 0x33 0xA0 0x40) := by decide

/-- 95 section 2.1 rows 9, 10: level 0x90 holds, 0x91 rises. -/
theorem test_fsamp_rising_is_strict :
    registersAfter (exec (.fsamp false) (at7 0x01 0x60 false false 0 0x90 0x70)) = some (at7 0x00 0x48 false false 0 0x90 0x70) ∧
    registersAfter (exec (.fsamp false) (at7 0x00 0x61 false false 0 0x90 0x70)) = some (at7 0x7F 0x7F true true 0 0x90 0x70) := by
  decide

/-- 95 section 2.1 rows 11, 12: level 0x6F falls, 0x70 holds. -/
theorem test_fsamp_falling_is_strict :
    registersAfter (exec (.fsamp false) (at7 0x02 0x49 true false 0 0x90 0x70)) = some (at7 0x00 0x00 false true 0 0x90 0x70) ∧
    registersAfter (exec (.fsamp false) (at7 0x03 0x49 true false 0 0x90 0x70)) = some (at7 0x02 0x38 true false 0 0x90 0x70) := by
  decide

/-- R122's example. -/
theorem test_asamp_zero_from_high :
    registersAfter (exec (.asamp false) (at7 0x7F 0x7F true false 0 0x90 0x70)) = some (at7 0x5F 0x77 true false 0 0x90 0x70) := by
  decide

/-- 95 section 2.1 row 28: falling above rising is no error. -/
theorem test_asamp_crossed_thresholds :
    registersAfter (exec (.asamp true) (at7 0x40 0x40 false false 0 0x70 0x90)) = some (at7 0x7F 0x7F true true 0 0x70 0x90) := by
  decide

/-- 95 section 2.7 row 1: suppressed, `changed` cleared. -/
theorem test_rlsamp_suppressed :
    registersAfter (step (driven (at7 0 0 false true 5 0x90 0x70) (edge 0x00C 20) [])) = some (at7 0 0 false false 5 0x90 0x70) := by
  decide

/-- 95 section 2.7 row 9: now_ms = 2044 has tick 0xFF. -/
theorem test_rlsamp_accepted :
    registersAfter (step (driven (at7 0x4A 0x21 false false 7 0x90 0x70) (edge 0x00C 2044) [])) =
      some (at7 0x58 0x2E false false 0xFF 0x90 0x70) := by decide

/-- 95 section 2.8 row 4: S is ignored. -/
theorem test_wrise :
    registersAfter (step (driven (at7 0 0 false true 5 0x90 0x70) (edge 0x00D 0) [])) = some (at7 0 0 false true 5 0x00 0x70) := by
  decide

/-- 95 section 2.8 row 5. -/
theorem test_wfall :
    registersAfter (step (driven (at7 0 0 false true 5 0x90 0x70) (edge 0xFF6 0) [])) = some (at7 0 0 false true 5 0x90 0xFF) := by
  decide

/-- 95 section 1.9: ticks. -/
theorem test_ticks :
    [0, 3, 4, 1020, 1023, 1024, 1028, 5000, 4294967295].map (fun n => (tickOf n).toNat) =
      [0x00, 0x00, 0x01, 0xFF, 0xFF, 0x00, 0x01, 0xE2, 0xFF] := by decide

/-- 95 section 1.1: decayed lanes. -/
theorem test_decay : [0xFE#8, 0x80#8, 0x40#8, 0x02#8, 0x00#8].map decay = [0xBE, 0x60, 0x30, 0x01, 0x00] := by decide

/-- 95 section 2.9 steps 2 and 7. -/
theorem test_packed_sum : packedSum 0x1040#16 true false = 0x2871#16 ∧ packedSum 0x8CD4#16 true false = 0xA1E0#16 := by decide

/-- R76, R200: the conforming block executes the reserved word as NOP. -/
theorem test_conforming_reserved :
    conformingStep (driven (at7 0x12 0x34 true true 5 0xA0 0x30) (edge 0x007 0) []) = at7 0x12 0x34 true true 5 0xA0 0x30 := by decide

/-! ## Assembler -/

/-- 95 section 2.7 row 1, in another letter case, with a comment. -/
theorem test_assemble_rlsamp :
    assembleLine ['r', 'L', 's', 'a', 'm', 'p', ' ', '1', ',', ' ', 't', '=', '2', '0', ' ', ';', 'x'] =
      .ok [{ instr := .rlsamp true, clock := some 20 }] := by rfl

/-- R80: a `v` outside 0 to 255 is refused. -/
theorem test_assemble_value_range :
    assembleLine ['W', 'R', 'I', 'S', 'E', ' ', '2', '5', '6'] = .error .badValue := by rfl

/-- R80: a missing operand is refused. -/
theorem test_assemble_missing_operand : assembleLine ['F', 'S', 'A', 'M', 'P'] = .error .missingOperand := by rfl

/-- Log entry 19, the model's choice: a line with no command assembles to nothing. -/
theorem test_assemble_no_command :
    assembleLine [] = .ok [] ∧ assembleLine [' ', '\t'] = .ok [] ∧ assembleLine [' ', ';', 'x'] = .ok [] := ⟨rfl, rfl, rfl⟩

/-- R80: a listing's line. -/
theorem test_listing :
    AsmItem.listing { instr := .fsamp true, clock := none } =
      ['0', 'x', '0', '0', 'A', ' ', ' ', 'F', 'S', 'A', 'M', 'P', ' ', '1'] := by decide

/-! ## Witnesses -/

theorem test_meets_PowerOnEdgeWritesEveryRegister : (driven State.reset (resetEdge true) []).pins.rst = true := by decide

theorem test_meets_HeldResetKeepsLastInitState :
    let s := driven State.reset (resetEdge true) [resetEdge false, edge 0x00A 0]
    let t := driven (at7 1 2 true true 3 4 5) { resetEdge true with cmd := 0x007#12, nowMs := 100 } []
    (s.pins.rst = true ∧ t.tickReset = s.tickReset ∧ t.pins = { s.pins with cmd := 0x007#12, nowMs := 100 }) ∧
    (∀ p ∈ [resetEdge false], p.rst = true) ∧ s.later = [resetEdge false] ++ [edge 0x00A 0] := by decide

theorem test_meets_FirstEdgeAfterResetExecutes :
    let s := driven State.reset (resetEdge true) [edge 0x007 0]
    let t := driven State.reset (resetEdge true) [edge 0x00A 0]
    (s.pins.rst = true ∧ s.later = [edge 0x007 0] ∧ (edge 0x007 0).rst = false ∧
      exec (decode (edge 0x007 0).cmd) s = .refused .reservedOpcode) ∧
    (t.pins.rst = true ∧ t.later = [edge 0x00A 0] ∧ (edge 0x00A 0).rst = false ∧
      exec (decode (edge 0x00A 0).cmd) t = .next (t.filterStep true)) :=
  ⟨⟨rfl, rfl, rfl, rfl⟩, rfl, rfl, rfl, rfl⟩

theorem test_meets_StepRunsThePresentedCommand :
    (State.reset.pins.rst = false ∧ exec (decode State.reset.pins.cmd) State.reset = .next State.reset) ∧
    ((edge 0x007 0).rst = false ∧ exec (decode (edge 0x007 0).cmd) State.reset = .refused .reservedOpcode) ∧
    (driven State.reset (edge 0 0) [edge 1 0]).later = [edge 1 0] ∧ State.reset.later = [] :=
  ⟨⟨rfl, rfl⟩, ⟨rfl, rfl⟩, rfl, rfl⟩

theorem test_meets_row_hypotheses :
    0xFF8#12 &&& 0x007#12 = 0x000#12 ∧ 0xFF9#12 &&& 0x007#12 = 0x001#12 ∧ 0xFFA#12 &&& 0x007#12 = 0x002#12 ∧
      0xFFB#12 &&& 0x007#12 = 0x003#12 ∧ 0xFFC#12 &&& 0x007#12 = 0x004#12 ∧ 0xFFD#12 &&& 0x007#12 = 0x005#12 ∧
      0xFFE#12 &&& 0x007#12 = 0x006#12 ∧ 0xFFF#12 &&& 0x007#12 = 0x007#12 := by decide

theorem test_meets_ResetCommandLoadsTheExtreme :
    exec (.reset true) (at7 1 2 false true 3 4 5) = .next (at7 0x7F 0x7F true false 3 4 5) := rfl

theorem test_meets_RateLimiterTakesOnePath :
    tickOf (driven (at7 0 0 false true 0xFF 0x90 0x70) (edge 0x00C 1023) []).pins.nowMs = 0xFF#8 ∧
    tickOf (driven (at7 0 0 false true 0xFF 0x90 0x70) (edge 0x00C 1024) []).pins.nowMs ≠ 0xFF#8 := by decide

theorem test_meets_FirstSampleAfterResetCommand :
    exec (.reset false) (at7 1 2 true true 3 0x0F 0xEF) = .next (at7 0 0 false false 3 0x0F 0xEF) ∧
    exec (.reset true) (at7 1 2 true true 3 0x10 0xF0) = .next (at7 0x7F 0x7F true false 3 0x10 0xF0) :=
  ⟨rfl, rfl⟩

theorem test_meets_RisingThresholdWriters :
    (∃ t, step (driven State.reset (edge 0xFF5 0) []) = .next t) ∧ (∃ t, step (driven State.reset (resetEdge false) []) = .next t) ∧
      (edge 0xFF5 0).rst = false ∧ decode (edge 0xFF5 0).cmd = .wrise 0xFF#8 :=
  ⟨⟨_, rfl⟩, ⟨_, rfl⟩, rfl, by decide⟩

theorem test_meets_FallingThresholdWriters :
    (∃ t, step (driven State.reset (edge 0xFF6 0) []) = .next t) ∧ (∃ t, step (driven State.reset (resetEdge false) []) = .next t) ∧
      (edge 0xFF6 0).rst = false ∧ decode (edge 0xFF6 0).cmd = .wfall 0xFF#8 :=
  ⟨⟨_, rfl⟩, ⟨_, rfl⟩, rfl, by decide⟩

theorem test_meets_TickWriters :
    let acc := driven State.reset (edge 0x00C 4) []
    let sup := driven State.reset (edge 0x00C 3) []
    ((∃ t, step (driven State.reset (resetEdge false) []) = .next t) ∧ (∃ t, step acc = .next t) ∧ (∃ t, step sup = .next t) ∧
      (∃ t, step (driven State.reset (edge 0x00A 4) []) = .next t)) ∧
    (decode acc.pins.cmd = .rlsamp true ∧ acceptedSample (.rlsamp true) acc = some true ∧
      acceptedSample (.rlsamp true) sup = none) ∧ (∀ b, decode (edge 0x00A 4).cmd ≠ .rlsamp b) :=
  ⟨⟨⟨_, rfl⟩, ⟨_, rfl⟩, ⟨_, rfl⟩, ⟨_, rfl⟩⟩, by decide, by decide⟩

theorem test_meets_ChangedWriters :
    (∀ p ∈ [resetEdge true, edge 0 0, edge 1 0, edge 2 0, edge 3 0, edge 5 0, edge 6 0],
      (registersAfter (step (driven State.reset p []))).isSome = true) ∧
    acceptedSample (.rlsamp true) (driven State.reset (edge 0x00C 1023) []) = some true ∧
    acceptedSample (.rlsamp true) (driven State.reset (edge 0x00C 1024) []) = none := by decide

theorem test_meets_OutputWriters :
    (registersAfter (step (driven State.reset (resetEdge true) []))).isSome = true ∧
    decode (edge 0x009 0).cmd = .reset true ∧
    acceptedSample (decode (edge 0x00B 0).cmd) (driven (at7 0 0 true false 0 0x90 0x70) (edge 0x00B 0) []) = some true ∧
    acceptedSample (decode (edge 0x00A 0).cmd) (driven State.reset (edge 0x00A 0) []) = some true ∧
    (∀ b, decode (edge 0x00C 0).cmd ≠ .reset b) ∧
    acceptedSample (decode (edge 0x00C 0).cmd) (driven State.reset (edge 0x00C 0) []) = none := by decide

theorem test_meets_FilterStateFrame :
    (∀ b, Instr.rlsamp true ≠ .reset b) ∧ acceptedSample (.rlsamp true) State.reset = none ∧
      exec (.rlsamp true) State.reset = .next State.reset.suppress := ⟨by decide, by decide, rfl⟩

theorem test_meets_CommandFrame :
    (∀ i ∈ [Instr.nop, .reset true, .fsamp true, .asamp false, .rlsamp true, .wrise 0xFF#8, .wfall 0#8],
      (registersAfter (exec i State.reset)).isSome = true) ∧ State.reset.sameTick = true := by decide

theorem test_meets_PermittedRunsNeverStop :
    (driven State.reset (edge 0x00A 0) [resetEdge true, edge 0xFF6 0]).hostPermitted = true := by decide

theorem test_meets_ModelRefinesTheConformingBlock :
    Instr.wellFormed (.rlsamp true) = true ∧
    (∃ t, Host.Core.run core 2 (driven State.reset (edge 0x00A 0) [edge 0x009 0]) = .next t) ∧
    step (driven State.reset (edge 0xFFF 0) []) = .refused .reservedOpcode := ⟨rfl, ⟨_, rfl⟩, rfl⟩

theorem test_meets_FilterSumsNeverWrap :
    (at7 0x7F 0 false false 0 0 0).stage1 = 0x7F#7 ∧
    (let s := at7 0x7D 0x7F true false 0 0 0
     s.stage2 = 0x7F#7 ∧ ((s.n1 true).toNat = 252) ∧ s.output = true) := by decide

theorem test_meets_PackedSumIsBothLanes :
    let s := at7 0x01 0x60 false false 0 0x90 0x70
    (0xC103#16).extractLsb' 9 7 = s.stage2 ∧ (0xC103#16).extractLsb' 1 7 = s.stage1 := by decide

theorem test_meets_PackedFilterAgrees :
    PackedFilter.represents { word := 0xC103#16, output := false, changed := true } (at7 0x01 0x60 false true 0 0x90 0x70) :=
  ⟨by decide, by decide, rfl, rfl⟩

theorem test_meets_OneThresholdIsRead :
    exec (.fsamp false) (at7 0x03 0x49 true false 0 0x90 0x70) = .next (at7 0x02 0x38 true false 0 0x90 0x70) ∧
    exec (.fsamp false) (at7 0x01 0x60 false false 0 0x90 0x70) = .next (at7 0x00 0x48 false false 0 0x90 0x70) := ⟨rfl, rfl⟩

theorem test_meets_SaturatedStatesAreFixed :
    (let s := at7 0x7F 0x7F true true 0 0x00 0xFF
     s.stage1 = 0x7F#7 ∧ s.stage2 = 0x7F#7 ∧ s.output = true) ∧
    (let s := at7 0 0 false true 0 0x00 0xFF
     s.stage1 = 0x00#7 ∧ s.stage2 = 0x00#7 ∧ s.output = false) := by decide

theorem test_meets_SeventhSampleFlipsAtDefaults :
    (let s := at7 0 0 false true 0 0x90 0x00
     s.stage1 = 0x00#7 ∧ s.stage2 = 0x00#7 ∧ s.output = false ∧ s.risingThreshold = 0x90#8) ∧
    (let s := at7 0x7F 0x7F true true 0 0xFF 0x70
     s.stage1 = 0x7F#7 ∧ s.stage2 = 0x7F#7 ∧ s.output = true ∧ s.fallingThreshold = 0x70#8) := by decide

theorem test_meets_TransitionSaturatesTheFilter :
    let s := at7 0x00 0x61 false false 0 0x90 0x70
    let t := at7 0x7F 0x7F true true 0 0x90 0x70
    acceptedSample (.asamp false) s = some false ∧ exec (.asamp false) s = .next t ∧ t.output ≠ s.output ∧
      s.risingThreshold = 0x90#8 ∧ s.fallingThreshold = 0x70#8 := ⟨rfl, rfl, by decide, rfl, rfl⟩

theorem test_meets_StepKeepsLevelBounds :
    (at7 0x7F 0x7B false false 0 0xF7 0).levelBounded ∧ (at7 0 0x04 true false 0 0xF7 0x08).levelBounded ∧
      (∃ t, step (at7 0x7F 0x7B false false 0 0xF7 0) = .next t) :=
  ⟨by unfold State.levelBounded; decide, by unfold State.levelBounded; decide, _, rfl⟩

theorem test_meets_ResetGivesLevelBounds :
    (∃ t, step (driven (at7 0x7F 0x7F false false 0 0 0) (resetEdge false) []) = .next t) ∧
    (∃ t, step (driven (at7 0x7F 0x7F false false 0 0 0) (edge 0x001 0) []) = .next t) ∧ (resetEdge false).rst = true ∧
      decode (edge 0x001 0).cmd = .reset false := ⟨⟨_, rfl⟩, ⟨_, rfl⟩, rfl, by decide⟩

theorem test_meets_LevelsStayInReach :
    let s := driven (at7 0x7F 0x7F false false 0 0xF7 0x08) (edge 0x001 0) [edge 0x00A 0, edge 0x00A 0]
    (∃ t u v, step s = .next t ∧ Host.Core.run core 1 t = .next u ∧ exec (.fsamp true) u = .next v ∧ u.output = false ∧
      0xF7 ≤ u.risingThreshold.toNat) ∧ decode s.pins.cmd = .reset false ∧
    (let r := driven (at7 0 0 true false 0 0xF7 0x08) (edge 0x009 0) [edge 0x002 0]
     (∃ t u v, step r = .next t ∧ Host.Core.run core 1 t = .next u ∧ exec (.fsamp false) u = .next v ∧ u.output = true ∧
      u.fallingThreshold.toNat ≤ 0x08)) :=
  ⟨⟨_, _, _, rfl, rfl, rfl, rfl, by decide⟩, by decide, _, _, _, rfl, rfl, rfl, rfl, by decide⟩

theorem test_meets_TickIsBitsNineToTwo :
    Config.minNowWidth ≤ 10 ∧ (∀ j, 2 ≤ j → j ≤ 9 → Nat.testBit 0 j = Nat.testBit 0x403 j) ∧ 4 * 255 ≤ 1023 ∧ 1023 ≤ 4 * 255 + 3 := by
  refine ⟨by decide, fun j h1 h2 => ?_, by decide, by decide⟩
  have : j = 2 ∨ j = 3 ∨ j = 4 ∨ j = 5 ∨ j = 6 ∨ j = 7 ∨ j = 8 ∨ j = 9 := by omega
  rcases this with rfl | rfl | rfl | rfl | rfl | rfl | rfl | rfl <;> decide

theorem test_meets_OnlyRlsampReadsTheClock :
    exec (.fsamp true) State.reset = .next (State.reset.filterStep true) ∧ (∀ b, Instr.fsamp true ≠ .rlsamp b) ∧
    exec (.rlsamp true) State.reset = .next State.reset.suppress ∧ tickOf 1027 = tickOf State.reset.pins.nowMs :=
  ⟨rfl, by decide, rfl, by decide⟩

theorem test_meets_TicksAliasByWindowDistance :
    (4 ≤ 1026 - 6 ∧ 1026 - 6 ≤ 1020) ∧ 4 ≤ 7 - 3 ∧ 1024 ∣ 2048 - 1024 ∧ tickOf 1023 = tickOf 2044 := by decide

theorem test_meets_SamplesInOneWindowCoalesce :
    let s := driven State.reset (edge 0x00C 4) [edge 0x004 5, edge 0x00C 7, edge 0x000 8]
    (∀ p ∈ [edge 0x00C 4, edge 0x004 5, edge 0x00C 7], (∃ b, p.isRlsamp b) ∧ 4 * 1 ≤ p.nowMs ∧ p.nowMs ≤ 4 * 1 + 3) ∧
      s.later = [edge 0x004 5, edge 0x00C 7] ++ [edge 0x000 8] := by
  refine ⟨?_, rfl⟩
  intro p hp
  simp only [List.mem_cons, List.not_mem_nil, or_false] at hp
  rcases hp with rfl | rfl | rfl
  · exact ⟨⟨true, rfl, by decide⟩, by decide⟩
  · exact ⟨⟨false, rfl, by decide⟩, by decide⟩
  · exact ⟨⟨true, rfl, by decide⟩, by decide⟩

theorem test_meets_OtherCommandsIgnoreTheTick :
    (∀ b, Instr.reset true ≠ .rlsamp b) ∧ exec (.reset true) State.reset = .next (State.reset.saturate true false) ∧
    (let s := driven State.reset (edge 0x00C 4) []
     acceptedSample (.rlsamp true) s = some true ∧ exec (.rlsamp true) s = .next (s.accept true)) :=
  ⟨by decide, rfl, by decide, rfl⟩

theorem test_meets_FirstRlsampAfterPowerOn :
    let qs := [edge 0x00A 1023, edge 0xFF5 1023]
    let s := driven { State.reset with tickReset := 0xFF#8 } (resetEdge true) (qs ++ edge 0x00C 1023 :: [])
    let t := driven { State.reset with tickReset := 0xFF#8 } (resetEdge true) (qs ++ edge 0x00C 1024 :: [])
    (∀ q ∈ qs, q.rst = false ∧ (decode q.cmd).wellFormed = true ∧ ∀ c, decode q.cmd ≠ .rlsamp c) ∧
    (s.pins.rst = true ∧ (edge 0x00C 1023).isRlsamp true ∧ tickOf 1023 = s.tickReset) ∧
    (t.pins.rst = true ∧ (edge 0x00C 1024).isRlsamp true ∧ tickOf 1024 ≠ t.tickReset) :=
  ⟨by decide, ⟨rfl, ⟨rfl, by decide⟩, by decide⟩, rfl, ⟨rfl, by decide⟩, by decide⟩

/-- Seven windows, from the last millisecond of the first to the first of the seventh: 21 ms, and the output has flipped. -/
theorem test_meets_RateLimitedFlipTakesTwentyOneMs :
    let ps := [edge 0x00C 4, edge 0x00C 8, edge 0x00C 12, edge 0x00C 16, edge 0x00C 20, edge 0x00C 24]
    let s := driven (at7 0 0 false true 0xAA 0x90 0x70) (edge 0x00C 3) ps
    (s.stage1 = 0x00#7 ∧ s.stage2 = 0x00#7 ∧ s.output = !true ∧ s.risingThreshold = 0x90#8 ∧ s.fallingThreshold = 0x70#8) ∧
      (∀ p ∈ s.pins :: ps, p.isRlsamp true) ∧ (s.pins :: ps).Pairwise (fun p q => p.nowMs ≤ q.nowMs) ∧ s.later = ps ∧
      (∃ t, Host.Core.run core (ps.length + 1) s = .next t ∧ t.output = true) := by
  refine ⟨by decide, ?_, by decide, rfl, _, rfl, rfl⟩
  intro p hp
  simp only [driven, List.mem_cons, List.not_mem_nil, or_false] at hp
  rcases hp with rfl | rfl | rfl | rfl | rfl | rfl | rfl <;> exact ⟨rfl, by decide⟩

/-- Seven windows, from the first millisecond of the first to the last of the seventh: 27 ms, and the last edge flips the output. -/
theorem test_meets_RateLimitedFlipComesInTheSeventhWindow :
    let ps := [edge 0x004 7, edge 0x004 11, edge 0x004 15, edge 0x004 19, edge 0x004 23, edge 0x004 27]
    let s := driven (at7 0x7F 0x7F true true 0xAA 0x90 0x70) (edge 0x004 0) ps
    (s.stage1 = 0x7F#7 ∧ s.stage2 = 0x7F#7 ∧ s.output = !false ∧ s.risingThreshold = 0x90#8 ∧ s.fallingThreshold = 0x70#8) ∧
      (∀ p ∈ s.pins :: ps, p.isRlsamp false) ∧ acceptedSample s.fetch s = some false ∧
      (s.pins :: ps).Pairwise (fun p q => p.nowMs ≤ q.nowMs) ∧
      (∀ n, s.pins.nowMs / 4 ≤ n → n ≤ (ps.getLastD s.pins).nowMs / 4 → ∃ p ∈ s.pins :: ps, p.nowMs / 4 = n) ∧ s.later = ps ∧
      (∃ t, Host.Core.run core (ps.length + 1) s = .next t ∧ t.output = false ∧ t.changed = true) := by
  refine ⟨by decide, ?_, by decide, by decide, fun n _ hn => ?_, rfl, _, rfl, rfl, rfl⟩
  · intro p hp
    simp only [driven, List.mem_cons, List.not_mem_nil, or_false] at hp
    rcases hp with rfl | rfl | rfl | rfl | rfl | rfl | rfl <;> exact ⟨rfl, by decide⟩
  · have all : ∀ n, n < 7 → ∃ p ∈ edge 0x004 0 :: [edge 0x004 7, edge 0x004 11, edge 0x004 15, edge 0x004 19, edge 0x004 23,
        edge 0x004 27], p.nowMs / 4 = n := by decide
    exact all n (Nat.lt_succ_of_le hn)

theorem test_meets_ChangedIsNotRead :
    exec (.fsamp true) State.reset = .next (State.reset.filterStep true) ∧
    exec (.rlsamp true) (at7 0 0 true true 0 0 0) = .next (at7 0 0 true false 0 0 0) ∧
    exec (.wfall 0xFF#8) (at7 0 0 true true 0 0 0) = .next (at7 0 0 true true 0 0 0xFF) := ⟨rfl, rfl, rfl⟩

/-- The threshold is the greatest that lets the level in, and each of the three commands gives the sample. -/
theorem test_meets_WrittenThresholdIsUsedNext :
    (∀ w ∈ [0x00A, 0x00B, 0x00C],
      let s := driven State.reset (edge 0x0F5 0) [edge w 4]
      s.pins.rst = false ∧ s.later = edge w 4 :: [] ∧ (edge w 4).rst = false ∧ decode s.pins.cmd = .wrise 0x0F#8 ∧
        s.output = false ∧ levelFormula s true = 0x10 ∧
        acceptedSample (decode (edge w 4).cmd) (s.setRising 0x0F#8).advance = some true) ∧
    (∀ w ∈ [0x002, 0x003, 0x004],
      let s := driven (at7 0x7F 0x7F true false 0 0x90 0x70) (edge 0xF06 0) [edge w 4]
      s.pins.rst = false ∧ s.later = edge w 4 :: [] ∧ (edge w 4).rst = false ∧ decode s.pins.cmd = .wfall 0xF0#8 ∧
        s.output = true ∧ levelFormula s false = 0xEF ∧
        acceptedSample (decode (edge w 4).cmd) (s.setFalling 0xF0#8).advance = some false) := by decide

theorem test_meets_ChannelsAreIndependent :
    let xs := [Channel.running State.reset, Channel.running State.reset]
    let ys := [Channel.stopped .reservedOpcode, Channel.running State.reset]
    xs[1]? = ys[1]? ∧
      [[true, false], [false]].map (fun m => List.getD m 1 false) = [[false, false], [true, false]].map (fun m => List.getD m 1 false) ∧
      (∀ m ∈ [[true, false], [false]], List.getD m 1 false = false) := by decide

theorem test_meets_AssemblingTheTextGivesTheCommand : Instr.wellFormed (.rlsamp true) = true := by decide

end Sys2Proof.Tests
end

/-!
# The registers and the edge (10_state.md)

Which step writes which register, what no command reads, and how a step runs the presented command.
-/

namespace Sys2Proof.Machine

/-! ## What each command answers -/

section Answers

variable (s : State) (b : Bool) (d : Lane)

@[simp] theorem exec_nop : exec .nop s = .next s := rfl
@[simp] theorem exec_reset : exec (.reset b) s = .next (s.saturate b false) := rfl
@[simp] theorem exec_fsamp : exec (.fsamp b) s = .next (s.filterStep b) := rfl
@[simp] theorem exec_asamp : exec (.asamp b) s = .next (s.filterStep b) := rfl
@[simp] theorem exec_rlsamp : exec (.rlsamp b) s = .next (if s.sameTick then s.suppress else s.accept b) := rfl
@[simp] theorem exec_wrise : exec (.wrise d) s = .next (s.setRising d) := rfl
@[simp] theorem exec_wfall : exec (.wfall d) s = .next (s.setFalling d) := rfl
@[simp] theorem exec_reserved : exec .reserved s = .refused .reservedOpcode := rfl

end Answers

/-! ## Accepted samples -/

/-- An RLSAMP is accepted exactly when its tick is a new one (41_rate_limiter.md R151). -/
theorem acceptedSample_rlsamp_eq_some {b : Bool} {s : State} :
    acceptedSample (.rlsamp b) s = some b ↔ s.sameTick = false := by
  simp [acceptedSample]

theorem acceptedSample_rlsamp_eq_none {b : Bool} {s : State} :
    acceptedSample (.rlsamp b) s = none ↔ s.sameTick = true := by
  simp [acceptedSample]

/-- A command that folds in an accepted sample takes the filter step, an RLSAMP with the tick beside it. -/
theorem exec_of_accepted {i : Instr} {s : State} {b : Bool} (ha : acceptedSample i s = some b) :
    exec i s = .next (s.filterStep b) ∨ exec i s = .next (s.accept b) := by
  cases i with
  | fsamp b' => cases ha; exact .inl rfl
  | asamp b' => cases ha; exact .inl rfl
  | rlsamp b' =>
    obtain ⟨hs, rfl⟩ : s.sameTick = false ∧ b' = b := by simpa [acceptedSample] using ha
    exact .inr (by simp [hs])
  | nop | reset _ | wrise _ | wfall _ | reserved => cases ha

/-! ## What a command keeps -/

theorem exec_keeps_risingThreshold {i : Instr} {s t : State} (h : exec i s = .next t) (hi : ∀ d, i ≠ .wrise d) :
    t.risingThreshold = s.risingThreshold := by
  cases i with
  | wrise d => exact absurd rfl (hi d)
  | nop | reset | wfall => cases h; rfl
  | fsamp | asamp => cases h; simp
  | rlsamp => cases h; split <;> simp
  | reserved => cases h

theorem exec_keeps_fallingThreshold {i : Instr} {s t : State} (h : exec i s = .next t) (hi : ∀ d, i ≠ .wfall d) :
    t.fallingThreshold = s.fallingThreshold := by
  cases i with
  | wfall d => exact absurd rfl (hi d)
  | nop | reset | wrise => cases h; rfl
  | fsamp | asamp => cases h; simp
  | rlsamp => cases h; split <;> simp
  | reserved => cases h

/-- No command but RLSAMP writes the tick (10_state.md R24). -/
theorem exec_keeps_lastSampleTick {i : Instr} {s t : State} (h : exec i s = .next t) (hi : ∀ b, i ≠ .rlsamp b) :
    t.lastSampleTick = s.lastSampleTick := by
  cases i with
  | rlsamp b => exact absurd rfl (hi b)
  | nop | reset | wrise | wfall => cases h; rfl
  | fsamp | asamp => cases h; simp
  | reserved => cases h

/-! ## What a filter step does to the two flags -/

/-- `n1` over the natural numbers: narrowing to 8 bits loses nothing (40_filter.md R101, R103). -/
theorem State.n1_toNat (s : State) (b : Bool) :
    (s.n1 b).toNat = s.stage1.toNat + s.stage1.toNat / 2 + (if b then 65 else 0) := by
  have := s.stage1.isLt
  simp only [State.n1, newLane1, sum1, decay_lane, sampleIncrement, BitVec.toNat_ofNat]
  split <;> omega

/-- The level is the one the pseudocode computes (40_filter.md R102, R103, R105). -/
theorem State.level_toNat (s : State) (b : Bool) : (s.level b).toNat = levelFormula s b := by
  have h1 := s.stage1.isLt
  have h2 := s.stage2.isLt
  simp only [State.level, State.n2, newLane2, sum2, decay_lane, State.n1_toNat, feedbackIncrement, levelFormula,
    Nat.shiftRight_eq_div_pow, BitVec.toNat_ofNat]
  split <;> split <;> omega

/-- A high output falls exactly on a level below the lower threshold (40_filter.md R106). -/
theorem State.filterStep_output_of_high {s : State} (ho : s.output = true) (b : Bool) :
    (s.filterStep b).output = false ↔ levelFormula s b < s.fallingThreshold.toNat := by
  rw [← State.level_toNat]
  obtain ⟨-, hl, h⟩ | ⟨hf, -, -⟩ | ⟨hl, -, h⟩ := s.filterStep_cases b
  · simp [h, hl]
  · simp [ho] at hf
  · simp [h, ho, hl ho]

/-- A low output rises exactly on a level above the upper threshold (40_filter.md R107). -/
theorem State.filterStep_output_of_low {s : State} (ho : s.output = false) (b : Bool) :
    (s.filterStep b).output = true ↔ s.risingThreshold.toNat < levelFormula s b := by
  rw [← State.level_toNat]
  obtain ⟨hf, -, -⟩ | ⟨-, hl, h⟩ | ⟨-, hl, h⟩ := s.filterStep_cases b
  · simp [ho] at hf
  · simp [h, hl]
  · simp [h, ho, hl ho]

/-- `changed` tells whether the filter step flipped `output` (10_state.md R23). -/
theorem State.filterStep_changed (s : State) (b : Bool) :
    (s.filterStep b).changed = ((s.filterStep b).output != s.output) := by
  obtain ⟨ho, -, h⟩ | ⟨ho, -, h⟩ | ⟨-, -, h⟩ := s.filterStep_cases b <;> simp [*]

/-- A command that folds in an accepted sample leaves the flags as the filter step does. -/
theorem exec_flags_of_accepted {i : Instr} {s t : State} {b : Bool} (ha : acceptedSample i s = some b)
    (h : exec i s = .next t) : t.output = (s.filterStep b).output ∧ t.changed = (s.filterStep b).changed := by
  obtain he | he := exec_of_accepted ha <;> rw [he] at h <;> cases h <;> simp

/-- An accepted sample writes whether it flipped `output` (10_state.md R23). -/
theorem exec_changed_of_accepted {i : Instr} {s t : State} {b : Bool} (ha : acceptedSample i s = some b)
    (h : exec i s = .next t) : t.changed = (t.output != s.output) := by
  obtain ⟨ho, hc⟩ := exec_flags_of_accepted ha h
  rw [hc, ho, State.filterStep_changed]

/-! ## The tick, and what the filter does not read -/

/-- The tick is the clock value in units of 4 ms (41_rate_limiter.md R150). -/
theorem State.tick_eq (s : State) : s.tick = BitVec.ofNat 8 (s.pins.nowMs / 4) := by
  simp [State.tick, tickOf, Nat.shiftRight_eq_div_pow]

/-- No filter step reads an input port: the sample is an operand (10_state.md R38). -/
theorem State.filterStep_with_pins (s : State) (p : Pins) (b : Bool) :
    State.filterStep { s with pins := p } b = { s.filterStep b with pins := p } := by
  have hl : State.level { s with pins := p } b = s.level b := rfl
  unfold State.filterStep
  simp only [hl]
  split <;> rfl

/-- No filter step reads `changed`, and each writes it (10_state.md R23, R28). -/
theorem State.filterStep_with_changed (s : State) (c : Bool) (b : Bool) :
    State.filterStep { s with changed := c } b = s.filterStep b := by
  have hl : State.level { s with changed := c } b = s.level b := rfl
  unfold State.filterStep
  simp only [hl]
  split <;> rfl

/-- The accept path reads of the clock only its tick (41_rate_limiter.md R150, R154). -/
theorem State.accept_with_pins {s : State} {p : Pins} (hp : tickOf p.nowMs = s.tick) (b : Bool) :
    State.accept { s with pins := p } b = { s.accept b with pins := p } := by
  simp [State.accept, State.filterStep_with_pins, State.tick, hp]

/-! ## The step -/

theorem step_of_exec_next {s t : State} (hr : s.pins.rst = false) (h : exec (decode s.pins.cmd) s = .next t) :
    step s = .next t.advance := by
  simp [step, hr, State.fetch, h, afterEdge]

theorem step_of_exec_refused {s : State} {r : Refusal} (hr : s.pins.rst = false)
    (h : exec (decode s.pins.cmd) s = .refused r) : step s = .refused r := by
  simp [step, hr, State.fetch, h, afterEdge]

/-! ## The obligations -/

/-- Settles O5: a step unfolds once, by `rst`, and `advance` by what the host has scheduled. -/
theorem stepRunsThePresentedCommand : Obligations.StepRunsThePresentedCommand := by
  refine ⟨fun s hr => ⟨fun t => step_of_exec_next hr, fun r => step_of_exec_refused hr⟩, fun t => ⟨?_, ?_, ?_, ?_⟩⟩
  · simp [State.sameRegisters]
  · simp
  · intro p ps h
    simp [State.advance_of_cons t p ps h]
  · intro h
    simp [State.advance_of_nil t h, h, Pins.idle]

/-- Settles O16: a step is a reset edge, a WRISE, or a command that keeps the register. -/
theorem risingThresholdWriters : Obligations.RisingThresholdWriters := by
  refine ⟨fun s t h => ⟨?_, rfl⟩, fun s d hr hd =>
    ⟨(s.setRising d).advance, step_of_exec_next hr (by simp [hd]), by simp⟩⟩
  obtain ⟨hr, rfl⟩ | ⟨hr, u, hu, rfl⟩ := step_next_cases h
  · simp [hr, risingDefault]
  · rw [State.fetch] at hu
    simp only [hr, Bool.false_eq_true, if_false, State.advance_risingThreshold]
    split
    · next d hd => rw [hd] at hu; cases hu; rfl
    · next hd => exact exec_keeps_risingThreshold hu hd

/-- Settles O17: a step is a reset edge, a WFALL, or a command that keeps the register. -/
theorem fallingThresholdWriters : Obligations.FallingThresholdWriters := by
  refine ⟨fun s t h => ⟨?_, rfl⟩, fun s d hr hd =>
    ⟨(s.setFalling d).advance, step_of_exec_next hr (by simp [hd]), by simp⟩, fun s b => ⟨_, exec_fsamp s b⟩⟩
  obtain ⟨hr, rfl⟩ | ⟨hr, u, hu, rfl⟩ := step_next_cases h
  · simp [hr, fallingDefault]
  · rw [State.fetch] at hu
    simp only [hr, Bool.false_eq_true, if_false, State.advance_fallingThreshold]
    split
    · next d hd => rw [hd] at hu; cases hu; rfl
    · next hd => exact exec_keeps_fallingThreshold hu hd

/-- Settles O18: an RLSAMP writes the tick on the accept path alone, and no other command writes it. -/
theorem tickWriters : Obligations.TickWriters := by
  intro s t h
  obtain ⟨hr, rfl⟩ | ⟨hr, u, hu, rfl⟩ := step_next_cases h
  · simp [hr]
  · rw [State.fetch] at hu
    refine ⟨by simp [hr], fun b _ hb => ?_, fun _ hb => ?_⟩
    · rw [hb] at hu
      cases hu
      rw [acceptedSample_rlsamp_eq_some, acceptedSample_rlsamp_eq_none]
      exact ⟨fun hs => by simp [hs, State.tick_eq], fun hs => by simp [hs]⟩
    · simpa using exec_keeps_lastSampleTick hu hb

/-- Settles O19: a filter step that leaves the smoothing path flips `output`. -/
theorem changedWriters : Obligations.ChangedWriters := by
  intro s t h
  refine ⟨rfl, ?_⟩
  obtain ⟨hr, rfl⟩ | ⟨hr, u, hu, rfl⟩ := step_next_cases h
  · simp [hr]
  · rw [State.fetch] at hu
    refine ⟨by simp [hr], fun _ => ?_⟩
    simp only [State.advance_changed, State.advance_output]
    cases hi : decode s.pins.cmd <;> rw [hi] at hu
    case nop | wrise | wfall | reset => cases hu; rfl
    case fsamp | asamp => exact exec_changed_of_accepted rfl hu
    case rlsamp b =>
      refine ⟨fun ha => exec_changed_of_accepted ha hu, fun ha => ?_⟩
      cases hu
      simp [acceptedSample_rlsamp_eq_none.mp ha]
    case reserved => cases hu

/-- Settles O21: what remains are NOP, the threshold writes and a suppressed RLSAMP. -/
theorem filterStateFrame : Obligations.FilterStateFrame := by
  intro i s t hi ha h
  obtain ⟨-, rfl⟩ | ⟨b, hb, -⟩ | ⟨b, rfl | rfl, -⟩ | ⟨b, -, -, rfl⟩ | ⟨b, rfl, hs, -⟩ | ⟨d, -, rfl⟩ | ⟨d, -, rfl⟩ :=
    exec_next_cases h
  · simp
  · exact absurd hb (hi b)
  · cases ha
  · cases ha
  · simp
  · simp [acceptedSample_rlsamp_eq_none, hs] at ha
  · simp
  · simp

/-- Settles O20: by the kind of the command, RESET, one with an accepted sample, or one that keeps the filter. -/
theorem outputWriters : Obligations.OutputWriters := by
  intro s t h
  refine ⟨rfl, ?_⟩
  obtain ⟨hr, rfl⟩ | ⟨hr, u, hu, rfl⟩ := step_next_cases h
  · simp [hr]
  · rw [State.fetch] at hu
    simp only [State.advance_output]
    refine ⟨by simp [hr], fun b _ hb => ?_, fun b _ ha => ?_, fun _ hi ha => ?_⟩
    · rw [hb] at hu
      cases hu
      rfl
    · obtain ⟨ho, -⟩ := exec_flags_of_accepted ha hu
      rw [ho]
      exact ⟨fun hs => State.filterStep_output_of_high hs b, fun hs => State.filterStep_output_of_low hs b⟩
    · obtain ⟨-, -, ho⟩ := filterStateFrame _ s u hi ha hu
      exact ho

/-- Settles O41: the filter step reads no input, and RLSAMP reads the clock through its tick comparison alone. -/
theorem onlyRlsampReadsTheClock : Obligations.OnlyRlsampReadsTheClock := by
  intro i s t n h hi
  cases i with
  | nop | reset | wrise | wfall => cases h; rfl
  | fsamp b | asamp b => cases h; simp [State.filterStep_with_pins]
  | rlsamp b =>
    have hn : tickOf n = s.tick := hi.resolve_left fun hb => hb b rfl
    have hs : State.sameTick { s with pins := { s.pins with nowMs := n } } = s.sameTick := by
      simp [State.sameTick, State.tick, hn]
    cases h
    rw [exec_rlsamp, hs, State.accept_with_pins hn]
    split <;> rfl
  | reserved => cases h

/-- Settles O47: the filter step overwrites `changed` unread, and the tick comparison does not see it. -/
theorem changedIsNotRead : Obligations.ChangedIsNotRead := by
  intro i s t c h
  cases i with
  | nop | wrise | wfall => cases h; exact ⟨rfl, rfl⟩
  | reset => cases h; rfl
  | fsamp b | asamp b => cases h; simp [State.filterStep_with_changed]
  | rlsamp b =>
    have ha : State.accept { s with changed := c } b = s.accept b := by
      simp [State.accept, State.filterStep_with_changed, State.tick]
    cases h
    rw [exec_rlsamp, ha]
    rfl
  | reserved => cases h

end Sys2Proof.Machine

/-!
# Encoding (30_encoding.md R70–R76)

A command word is its three fields side by side. The facts about the decoder are read off the fields, not off the 4096 words.
-/

namespace Sys2Proof

/-! ## The fields of a packed word -/

section Fields

variable (d d' : Lane) (s s' : Bool) (op op' : OpField)

/-- Bit by bit: OP in the lowest three bits, S above it, D on top (R70). -/
theorem getLsbD_packFields (i : Nat) :
    (packFields d s op).getLsbD i =
      if i < 3 then op.getLsbD i else if i = 3 then s else d.getLsbD (i - 4) := by
  have h : (packFields d s op).getLsbD i = (d ++ BitVec.ofBool s ++ op : BitVec (8 + 1 + 3)).getLsbD i := rfl
  rw [h, BitVec.getLsbD_append, BitVec.getLsbD_append]
  grind

@[simp] theorem opField_packFields : opField (packFields d s op) = op := by
  apply BitVec.eq_of_getLsbD_eq
  intro i hi
  simp [opField, getLsbD_packFields, hi]

@[simp] theorem sField_packFields : sField (packFields d s op) = s :=
  (getLsbD_packFields d s op 3).trans (by simp)

@[simp] theorem dField_packFields : dField (packFields d s op) = d := by
  apply BitVec.eq_of_getLsbD_eq
  intro i hi
  simp [dField, getLsbD_packFields, hi, show ¬ 4 + i < 3 by omega, show 4 + i ≠ 3 by omega]

/-- A word is nothing but its three fields (R70). -/
theorem packFields_fields (w : Command) : packFields (dField w) (sField w) (opField w) = w := by
  apply BitVec.eq_of_getLsbD_eq
  intro i hi
  rw [getLsbD_packFields]
  split
  · next h => simp [opField, h]
  · split
    · next h => rw [h, sField]
    · have h : 4 + (i - 4) = i := by omega
      simp [dField, h, show i - 4 < 8 by omega]

/-- Two words meet field by field. -/
theorem packFields_and :
    packFields d s op &&& packFields d' s' op' = packFields (d &&& d') (s && s') (op &&& op') := by
  simp only [packFields]
  exact BitVec.and_append.trans (by rw [BitVec.and_append, BitVec.ofBool_and_ofBool])

theorem packFields_eq_append : packFields d s op = d ++ (BitVec.ofBool s ++ op) := BitVec.append_assoc

end Fields

/-! ## Decoding by the fields -/

/-- The eight values of OP. -/
theorem opField_cases (op : OpField) :
    op = 0#3 ∨ op = 1#3 ∨ op = 2#3 ∨ op = 3#3 ∨ op = 4#3 ∨ op = 5#3 ∨ op = 6#3 ∨ op = 7#3 := by
  revert op
  decide

section Decode

variable (d : Lane) (s : Bool)

@[simp] theorem decode_packFields_op0 : decode (packFields d s 0#3) = .nop := by simp [decode]
@[simp] theorem decode_packFields_op1 : decode (packFields d s 1#3) = .reset s := by simp [decode]
@[simp] theorem decode_packFields_op2 : decode (packFields d s 2#3) = .fsamp s := by simp [decode]
@[simp] theorem decode_packFields_op3 : decode (packFields d s 3#3) = .asamp s := by simp [decode]
@[simp] theorem decode_packFields_op4 : decode (packFields d s 4#3) = .rlsamp s := by simp [decode]
@[simp] theorem decode_packFields_op5 : decode (packFields d s 5#3) = .wrise d := by simp [decode]
@[simp] theorem decode_packFields_op6 : decode (packFields d s 6#3) = .wfall d := by simp [decode]
@[simp] theorem decode_packFields_op7 : decode (packFields d s 7#3) = .reserved := by simp [decode]

end Decode

theorem decode_encode (i : Instr) : decode (encode i) = i := by
  cases i <;> simp [encode]

/-- The bits a command reads: OP always, S for RESET and the samples, D for the threshold writes (R74). -/
theorem usedBits_eq_packFields (op : OpField) :
    usedBits op = packFields (if op = 5#3 ∨ op = 6#3 then 0xFF#8 else 0#8)
      (op = 1#3 ∨ op = 2#3 ∨ op = 3#3 ∨ op = 4#3) 7#3 := by
  revert op
  decide

/-- Encoding what a word stands for keeps the bits its command reads and clears the others (R75). -/
theorem encode_decode (w : Command) : encode (decode w) = w &&& usedBits (opField w) := by
  rw [← packFields_fields w]
  generalize dField w = d, sField w = s, opField w = op
  rw [opField_packFields, usedBits_eq_packFields, packFields_and]
  have hd : d &&& 0xFF#8 = d := BitVec.and_allOnes
  rcases opField_cases op with rfl | rfl | rfl | rfl | rfl | rfl | rfl | rfl <;> simp [encode, hd]

/-- The words of a command are those that agree with its encoding in the bits the command reads (R74, R75). -/
theorem decode_eq_iff (w : Command) (i : Instr) : decode w = i ↔ w &&& usedBits (opField w) = encode i := by
  rw [← encode_decode]
  exact ⟨congrArg encode, fun h => by rw [← decode_encode (decode w), h, decode_encode]⟩

/-! ## The rows of the opcode map -/

/-- OP alone decides which row a word meets (R71). -/
theorem opField_and_mask (w : Command) : opField (w &&& 0x007#12) = opField w := by
  have hmask : opField 0x007#12 = BitVec.allOnes 3 := by decide
  rw [opField, BitVec.extractLsb'_and, ← opField, ← opField, hmask, BitVec.and_allOnes]

theorem opField_of_row {w v : Command} (h : w &&& 0x007#12 = v) : opField w = opField v := by
  rw [← h, opField_and_mask]

/-- Every command reads OP, so clearing what it ignores changes no row (R71, R75). -/
theorem covers_and_usedBits (w : Command) (op : OpField) {r : OpcodeRow} (hr : r ∈ opcodeMap) :
    r.covers (w &&& usedBits op) = r.covers w := by
  have hmask : ∀ op, ∀ r ∈ opcodeMap, usedBits op &&& r.mask = r.mask := by decide
  rw [OpcodeRow.covers, OpcodeRow.covers, BitVec.and_assoc, hmask op r hr]

/-- The canonical word of every command meets its own row only. -/
theorem canonicalWord (i : Instr) : Laws.CanonicalWord.Statement i := by
  cases i with
  | nop => exact Laws.CanonicalWord.nop
  | reset s => exact Laws.CanonicalWord.reset s
  | fsamp s => exact Laws.CanonicalWord.fsamp s
  | asamp s => exact Laws.CanonicalWord.asamp s
  | rlsamp s => exact Laws.CanonicalWord.rlsamp s
  | wrise d => exact Laws.CanonicalWord.wrise d
  | wfall d => exact Laws.CanonicalWord.wfall d
  | reserved => exact Laws.CanonicalWord.reserved

/-- The rows a word meets are those its canonical word meets: one, with the command's mnemonic (R74). -/
theorem filter_covers_eq_singleton (w : Command) :
    ∃ r, opcodeMap.filter (fun q => q.covers w) = [r] ∧ r.mnemonic = (decode w).mnemonic := by
  have hrows : opcodeMap.filter (fun q => q.covers (encode (decode w))) = opcodeMap.filter (fun q => q.covers w) :=
    List.filter_congr fun q hq => by rw [encode_decode, covers_and_usedBits w _ hq]
  obtain ⟨-, hone⟩ := canonicalWord (decode w)
  rwa [hrows, List.map_eq_singleton_iff] at hone

/-! ## The obligations -/

open Sys2Proof.Machine

/-- Settles O26: what a word stands for encodes as the word with its ignored bits cleared. -/
theorem decodeOfEncode : Obligations.DecodeOfEncode := ⟨decode_encode, decode_eq_iff⟩

/-- Settles O14: the row fixes OP, and OP 111 is the decoder's last arm. -/
theorem reservedOpcodeIsRefused : Obligations.ReservedOpcodeIsRefused := by
  refine ⟨fun w hw => ?_, fun s => ⟨exec_reserved s, exec_nop s⟩⟩
  have hop : opField w = 7#3 := opField_of_row hw
  rw [← packFields_fields w, hop, decode_packFields_op7]

/-- Settles O27: clearing the ignored bits is encoding what the word stands for. -/
theorem ignoredBitsHaveNoEffect : Obligations.IgnoredBitsHaveNoEffect := by
  refine ⟨fun w => ⟨?_, encode_decode w⟩, by decide⟩
  calc decode w = decode (encode (decode w)) := (decode_encode _).symm
    _ = decode (w &&& usedBits (opField w)) := by rw [encode_decode]

/-- Settles O28: the rows a word meets are one row, the decoded command's. -/
theorem opcodeMapPartitionsTheWords : Obligations.OpcodeMapPartitionsTheWords := by
  refine ⟨rfl, fun w => ?_⟩
  obtain ⟨r, hone, hm⟩ := filter_covers_eq_singleton w
  have hmem : ∀ q, q ∈ opcodeMap ∧ w &&& q.mask = q.value ↔ q = r := fun q => by
    rw [← List.mem_singleton (a := q) (b := r), ← hone, List.mem_filter, OpcodeRow.covers, beq_iff_eq]
  obtain ⟨hr, hcov⟩ := (hmem r).mpr rfl
  exact ⟨r, hr, ⟨hcov, hm⟩, fun q hq hqcov => (hmem q).mp ⟨hq, hqcov⟩⟩

/-- Settles O29, by evaluating the decoder on the ten words. -/
theorem sampleWordsDecode : Obligations.SampleWordsDecode := by
  unfold Obligations.SampleWordsDecode
  decide

end Sys2Proof

/-!
# The assembler (30_encoding.md R80, R81)

The text of a command is a mnemonic, a blank and its operands. Mnemonic and operands are words: no blank, comma or semicolon
stands in them. So the line falls apart into exactly these words, and each operand reads back as the value that was written.
-/

namespace Sys2Proof.Machine

/-! ## Pseudo-commands -/

/-- Settles O50: under D, the low four bits of the threshold writes' words are the digits 5 and 6. -/
theorem pseudoCommandsExpand : Obligations.PseudoCommandsExpand := by
  refine ⟨fun r f => ?_, rfl, fun n _ => ?_, fun s => rfl⟩
  · simp only [Pseudo.expand, List.map_cons, List.map_nil, encode, packFields_eq_append]
    rfl
  · rw [Pseudo.expand, List.map_replicate]
    rfl

/-! ## Words of a line -/

/-- A character that ends no word of a line. -/
def isWordChar (c : Char) : Bool := !isBlank c && c != ',' && c != ';'

/-- A word of a line: a mnemonic or an operand. -/
def isWord (cs : List Char) : Bool := !cs.isEmpty && cs.all isWordChar

theorem isWord_iff {cs : List Char} : isWord cs = true ↔ cs ≠ [] ∧ ∀ c ∈ cs, isWordChar c = true := by
  simp [isWord]

theorem isWordChar_iff {c : Char} : isWordChar c = true ↔ isBlank c = false ∧ c ≠ ',' ∧ c ≠ ';' := by
  simp [isWordChar, and_assoc]

theorem isWord_append {a b : List Char} (ha : isWord a = true) (hb : isWord b = true) : isWord (a ++ b) = true := by
  rw [isWord_iff] at *
  exact ⟨List.append_ne_nil_of_left_ne_nil ha.1 b, List.forall_mem_append.mpr ⟨ha.2, hb.2⟩⟩

theorem isWord_reverse {a : List Char} (ha : isWord a = true) : isWord a.reverse = true := by
  simpa [isWord] using ha

theorem dropWhile_isBlank_append {a : List Char} (ha : isWord a = true) (rest : List Char) :
    (a ++ rest).dropWhile isBlank = a ++ rest := by
  obtain ⟨hne, hc⟩ := isWord_iff.mp ha
  obtain ⟨c, cs, rfl⟩ := List.exists_cons_of_ne_nil hne
  obtain ⟨hb, -, -⟩ := isWordChar_iff.mp (hc c List.mem_cons_self)
  simp [hb]

/-! ## Operands -/

/-- Trimming takes off leading blanks and stops at the words at both ends. -/
theorem trimBlanks_between {a b x y text : List Char} (ha : isWord a = true) (hb : isWord b = true)
    (hx : text = a ++ x) (hy : text = y ++ b) : trimBlanks text = text ∧ trimBlanks (' ' :: text) = text := by
  have hdrop : text.dropWhile isBlank = text := by rw [hx, dropWhile_isBlank_append ha]
  have hblank : (' ' :: text).dropWhile isBlank = text.dropWhile isBlank := List.dropWhile_cons_of_pos rfl
  have hend : text.reverse.dropWhile isBlank = text.reverse := by
    rw [hy, List.reverse_append, dropWhile_isBlank_append (isWord_reverse hb)]
  simp [trimBlanks, hblank, hdrop, hend]

theorem trimBlanks_word {a : List Char} (ha : isWord a = true) : trimBlanks a = a ∧ trimBlanks (' ' :: a) = a :=
  trimBlanks_between ha ha a.append_nil.symm a.nil_append.symm

theorem isWord_no_comma {a : List Char} (ha : isWord a = true) : ∀ c ∈ a, c ≠ ',' := by
  intro c hc
  obtain ⟨-, hcomma, -⟩ := isWordChar_iff.mp ((isWord_iff.mp ha).2 c hc)
  exact hcomma

theorem isWord_no_semicolon {a : List Char} (ha : isWord a = true) : ∀ c ∈ a, c ≠ ';' := by
  intro c hc
  obtain ⟨-, -, hsemi⟩ := isWordChar_iff.mp ((isWord_iff.mp ha).2 c hc)
  exact hsemi

/-- Text without a comma goes onto the first part of what follows it. -/
theorem splitCommas_append {a rest p : List Char} {ps : List (List Char)} (ha : ∀ c ∈ a, c ≠ ',')
    (h : splitCommas rest = p :: ps) : splitCommas (a ++ rest) = (a ++ p) :: ps := by
  induction a with
  | nil => exact h
  | cons c cs ih =>
    obtain ⟨hc, hcs⟩ := List.forall_mem_cons.mp ha
    simp [splitCommas, hc, ih hcs]

theorem splitCommas_word {a : List Char} (ha : isWord a = true) : splitCommas a = [a] := by
  simpa using splitCommas_append (isWord_no_comma ha) (rest := []) rfl

theorem splitCommas_word_comma {a : List Char} (ha : isWord a = true) (rest : List Char) :
    splitCommas (a ++ ',' :: rest) = a :: splitCommas rest := by
  simpa using splitCommas_append (isWord_no_comma ha) (rest := ',' :: rest) rfl

theorem asmOperands_of_trim {text rest : List Char} (ht : trimBlanks text = rest) (hne : rest ≠ []) :
    asmOperands text = (splitCommas rest).map trimBlanks := by
  obtain ⟨c, cs, rfl⟩ := List.exists_cons_of_ne_nil hne
  rw [asmOperands, ht]

theorem asmOperands_one {a : List Char} (ha : isWord a = true) : asmOperands (' ' :: a) = [a] := by
  obtain ⟨hself, hlead⟩ := trimBlanks_word ha
  obtain ⟨hne, -⟩ := isWord_iff.mp ha
  rw [asmOperands_of_trim hlead hne, splitCommas_word ha, List.map_singleton, hself]

theorem asmOperands_two {a b : List Char} (ha : isWord a = true) (hb : isWord b = true) :
    asmOperands (' ' :: (a ++ ',' :: ' ' :: b)) = [a, b] := by
  obtain ⟨-, hlead⟩ := trimBlanks_between (text := a ++ ',' :: ' ' :: b) (y := a ++ [',', ' ']) ha hb rfl (by simp)
  have hrest : splitCommas (' ' :: b) = [' ' :: b] := by
    simpa using splitCommas_append (a := [' ']) (by simp) (splitCommas_word hb)
  rw [asmOperands_of_trim hlead (by simp), splitCommas_word_comma ha, hrest, List.map_cons, List.map_singleton,
    (trimBlanks_word ha).1, (trimBlanks_word hb).2]

/-! ## Lines -/

/-- A line without a comment that begins with a mnemonic. -/
theorem assembleLine_mnemonic {m rest : List Char} {op : AsmOp} (hm : isWord m = true)
    (hop : asmOps.lookup (m.map lowerChar) = some op) (hrest : ∀ c ∈ rest, c ≠ ';') :
    assembleLine (m ++ ' ' :: rest) = assembleOp op (asmOperands (' ' :: rest)) := by
  obtain ⟨hne, hc⟩ := isWord_iff.mp hm
  have hnb : ∀ c ∈ m, (!isBlank c) = true := fun c h => by simp [(isWordChar_iff.mp (hc c h)).1]
  have hcomment : (m ++ ' ' :: rest).takeWhile (fun c => c != ';') = m ++ ' ' :: rest := by
    have hall : ∀ c ∈ m ++ ' ' :: rest, (c != ';') = true := fun c h => bne_iff_ne.mpr
      (List.forall_mem_append.mpr ⟨isWord_no_semicolon hm, List.forall_mem_cons.mpr ⟨by decide, hrest⟩⟩ c h)
    have htake := List.takeWhile_append_of_pos (l₂ := []) hall
    rwa [List.append_nil, List.takeWhile_nil, List.append_nil] at htake
  have htake : (m ++ ' ' :: rest).takeWhile (fun c => !isBlank c) = m := by
    rw [List.takeWhile_append_of_pos hnb, List.takeWhile_cons_of_neg (by decide), List.append_nil]
  have hdrop : (m ++ ' ' :: rest).dropWhile (fun c => !isBlank c) = ' ' :: rest := by
    rw [List.dropWhile_append_of_pos hnb, List.dropWhile_cons_of_neg (by decide)]
  obtain ⟨x, xs, hx⟩ := List.exists_cons_of_ne_nil (List.append_ne_nil_of_left_ne_nil hne (' ' :: rest))
  rw [assembleLine, hcomment, dropWhile_isBlank_append hm]
  split
  · next h => simp [h] at hx
  · rw [htake, hdrop, hop]

/-- A line with one operand assembles to the commands of the value it reads. -/
theorem assembleLine_one {α : Type} {m a : List Char} {op : AsmOp} {read : List Char → Except AsmError α}
    {is : α → List Instr} {x : α} (hm : isWord m = true) (hop : asmOps.lookup (m.map lowerChar) = some op)
    (hread : ∀ ops, assembleOp op ops = asmOne ops read is) (ha : isWord a = true) (hx : read a = .ok x) :
    assembleLine (m ++ ' ' :: a) = .ok (plainItems (is x)) := by
  obtain ⟨hne, -⟩ := isWord_iff.mp ha
  rw [assembleLine_mnemonic hm hop (isWord_no_semicolon ha), asmOperands_one ha, hread]
  simp [asmOne, checkOperands, hne, hx, Except.map]

/-- A line with two operands assembles to the items of the values it reads. -/
theorem assembleLine_two {α β : Type} {m a b : List Char} {op : AsmOp} {readA : List Char → Except AsmError α}
    {readB : List Char → Except AsmError β} {items : α → β → List AsmItem} {x : α} {y : β} (hm : isWord m = true)
    (hop : asmOps.lookup (m.map lowerChar) = some op) (hread : ∀ ops, assembleOp op ops = asmTwo ops readA readB items)
    (ha : isWord a = true) (hb : isWord b = true) (hx : readA a = .ok x) (hy : readB b = .ok y) :
    assembleLine (m ++ ' ' :: (a ++ ',' :: ' ' :: b)) = .ok (items x y) := by
  obtain ⟨hna, -⟩ := isWord_iff.mp ha
  obtain ⟨hnb, -⟩ := isWord_iff.mp hb
  have hrest : ∀ c ∈ a ++ ',' :: ' ' :: b, c ≠ ';' :=
    List.forall_mem_append.mpr ⟨isWord_no_semicolon ha, by simpa using isWord_no_semicolon hb⟩
  rw [assembleLine_mnemonic hm hop hrest, asmOperands_two ha hb, hread]
  simp [asmTwo, checkOperands, hna, hnb, hx, hy]

/-! ## Operands read back -/

theorem isWord_stateText (s : Bool) : isWord (stateText s) = true := by cases s <;> rfl

theorem readState_stateText (s : Bool) : readState (stateText s) = .ok s := by cases s <;> rfl

theorem hexChar_spec : ∀ n < 16, isWordChar (hexChar n) = true ∧ hexValue (hexChar n) = some n := by decide

theorem isWord_valueText (v : Lane) : isWord (valueText v) = true := by
  obtain ⟨hhi, -⟩ := hexChar_spec (v.toNat / 16) (by omega)
  obtain ⟨hlo, -⟩ := hexChar_spec (v.toNat % 16) (by omega)
  have hx : isWordChar '0' = true ∧ isWordChar 'x' = true := by decide
  simp [isWord, valueText, hhi, hlo, hx]

/-- Two hexadecimal digits make the value. -/
theorem readValue_valueText (v : Lane) : readValue (valueText v) = .ok v := by
  have hv := v.isLt
  obtain ⟨-, hhi⟩ := hexChar_spec (v.toNat / 16) (by omega)
  obtain ⟨-, hlo⟩ := hexChar_spec (v.toNat % 16) (by omega)
  have hn : readNumber (valueText v) = some v.toNat := by
    simp only [valueText, readNumber, readDigits, hhi, hlo]
    grind
  simp [readValue, hn, hv]

theorem isWordChar_of_isDigit {c : Char} (h : c.isDigit = true) : isWordChar c = true := by
  have hne : ∀ x : Char, x.isDigit = false → c ≠ x := by
    rintro x hx rfl
    simp [hx] at h
  simp [isWordChar, isBlank, hne ' ' rfl, hne '\t' rfl, hne '\r' rfl, hne ',' rfl, hne ';' rfl]

theorem hexValue_of_isDigit {c : Char} (h : c.isDigit = true) :
    hexValue c = some (c.toNat - '0'.toNat) ∧ c.toNat - '0'.toNat < 10 := by
  have hc : 48 ≤ c.toNat ∧ c.toNat ≤ 57 := by simpa [Char.isDigit, UInt32.le_iff_toNat_le] using h
  have h0 : '0'.toNat = 48 := rfl
  exact ⟨by simp [hexValue, hc, h0], by omega⟩

/-- In base 10 the model reads digits as the library does. -/
theorem readDigits_ten {cs : List Char} (h : ∀ c ∈ cs, c.isDigit = true) (acc : Nat) :
    readDigits 10 acc cs = some (Nat.ofDigitChars 10 cs acc) := by
  induction cs generalizing acc with
  | nil => rfl
  | cons c cs ih =>
    obtain ⟨hc, hcs⟩ := List.forall_mem_cons.mp h
    obtain ⟨hv, hlt⟩ := hexValue_of_isDigit hc
    simp only [readDigits, hv, if_pos hlt, ih hcs, Nat.ofDigitChars_cons, Nat.mul_comm acc]

/-- Decimal digits are no hexadecimal number: no `x` stands among them. -/
theorem readNumber_digits {cs : List Char} (hne : cs ≠ []) (h : ∀ c ∈ cs, c.isDigit = true) :
    readNumber cs = readDigits 10 0 cs := by
  have hx : 'x' ∉ cs := fun hm => by simpa using h 'x' hm
  unfold readNumber
  split
  · contradiction
  · simp at hx
  · simp at hx
  · rfl

theorem isDigit_toDigits (t : Nat) : ∀ c ∈ Nat.toDigits 10 t, c.isDigit = true :=
  fun _ => Nat.isDigit_of_mem_toDigits (by decide) (by decide)

theorem readNumber_toDigits (t : Nat) : readNumber (Nat.toDigits 10 t) = some t := by
  rw [readNumber_digits Nat.toDigits_ne_nil (isDigit_toDigits t), readDigits_ten (isDigit_toDigits t),
    Nat.ofDigitChars_toDigits (by decide) (by decide)]

/-- The clock operand of an RLSAMP as a listing writes it. -/
def clockText (t : Nat) : List Char := 't' :: '=' :: Nat.toDigits 10 t

theorem isWord_clockText (t : Nat) : isWord (clockText t) = true := by
  have hdigits : isWord (Nat.toDigits 10 t) = true :=
    isWord_iff.mpr ⟨Nat.toDigits_ne_nil, fun c hc => isWordChar_of_isDigit (isDigit_toDigits t c hc)⟩
  exact isWord_append (a := ['t', '=']) (by decide) hdigits

theorem readClock_clockText (t : Nat) : readClock (clockText t) = .ok t := by
  simp [readClock, clockText, readNumber_toDigits]

/-! ## The obligation -/

/-- Settles O51: the line falls apart into its words, and each operand reads back. -/
theorem assemblingTheTextGivesTheCommand : Obligations.AssemblingTheTextGivesTheCommand := by
  intro i t hi
  cases i with
  | nop => rfl
  | reset s =>
    exact assembleLine_one (m := ['R', 'E', 'S', 'E', 'T']) rfl rfl (fun _ => rfl) (isWord_stateText s) (readState_stateText s)
  | fsamp s =>
    exact assembleLine_one (m := ['F', 'S', 'A', 'M', 'P']) rfl rfl (fun _ => rfl) (isWord_stateText s) (readState_stateText s)
  | asamp s =>
    exact assembleLine_one (m := ['A', 'S', 'A', 'M', 'P']) rfl rfl (fun _ => rfl) (isWord_stateText s) (readState_stateText s)
  | rlsamp s =>
    have htext : AsmItem.text { instr := .rlsamp s, clock := some t } =
        ['R', 'L', 'S', 'A', 'M', 'P'] ++ ' ' :: (stateText s ++ ',' :: ' ' :: clockText t) := by
      simp [AsmItem.text, clockText]
    rw [htext]
    exact (assembleLine_two rfl rfl (fun _ => rfl) (isWord_stateText s) (isWord_clockText t) (readState_stateText s)
      (readClock_clockText t)).trans rfl
  | wrise v =>
    exact assembleLine_one (m := ['W', 'R', 'I', 'S', 'E']) rfl rfl (fun _ => rfl) (isWord_valueText v) (readValue_valueText v)
  | wfall v =>
    exact assembleLine_one (m := ['W', 'F', 'A', 'L', 'L']) rfl rfl (fun _ => rfl) (isWord_valueText v) (readValue_valueText v)
  | reserved => cases hi

end Sys2Proof.Machine

/-!
# The filter (40_filter.md)

What a filter step computes, its packed form, and the levels that a reset block can reach.
-/

namespace Sys2Proof.Machine

/-! ## The words of the filter commands -/

/-- A row fixes OP, so a word of it decodes as its own D and S under that OP (30_encoding.md R71, R74). -/
theorem decode_of_row {w v : Command} (h : w &&& 0x007#12 = v) :
    decode w = decode (packFields (dField w) (sField w) (opField v)) := by
  rw [← opField_of_row h, packFields_fields]

/-! ## The filter step as the pseudocode writes it -/

theorem store_eq_ofNat (n : Lane) : store n = BitVec.ofNat 7 (n.toNat / 2) := by
  rw [← store_toNat, BitVec.ofNat_toNat, BitVec.setWidth_eq]

/-- The lane-by-lane filter step is the pseudocode over the natural numbers (R110). -/
theorem State.filterStep_eq_formula (s : State) (b : Bool) : s.filterStep b = filterStepFormula s b := by
  have hformula : filterStepFormula s b =
      if s.output = true ∧ levelFormula s b < s.fallingThreshold.toNat then s.saturate false true
      else if s.output = false ∧ levelFormula s b > s.risingThreshold.toNat then s.saturate true true
      else s.smooth (s.n1 b) (s.n2 b) := by
    rw [State.smooth, store_eq_ofNat, store_eq_ofNat, State.n1_toNat, ← State.level, State.level_toNat]
    rfl
  rw [hformula, ← State.level_toNat]
  obtain ⟨ho, hl, h⟩ | ⟨ho, hl, h⟩ | ⟨hf, hr, h⟩ := s.filterStep_cases b
  · rw [h, if_pos ⟨ho, hl⟩]
  · have hnot : ¬ (s.output = true ∧ (s.level b).toNat < s.fallingThreshold.toNat) := by simp [ho]
    rw [h, if_neg hnot, if_pos ⟨ho, hl⟩]
  · rw [h, if_neg fun ⟨ho, hl⟩ => Nat.not_lt.mpr (hf ho) hl, if_neg fun ⟨ho, hl⟩ => Nat.not_lt.mpr (hr ho) hl]

/-! ## Which threshold a filter step reads -/

theorem State.filterStep_with_risingThreshold {s : State} (ho : s.output = true) (th : Lane) (b : Bool) :
    State.filterStep { s with risingThreshold := th } b = { s.filterStep b with risingThreshold := th } := by
  have hl : State.level { s with risingThreshold := th } b = s.level b := rfl
  have hs : schmitt s.output th s.fallingThreshold (s.level b) =
      schmitt s.output s.risingThreshold s.fallingThreshold (s.level b) := by simp [schmitt, ho]
  unfold State.filterStep
  simp only [hl, hs]
  split <;> rfl

theorem State.filterStep_with_fallingThreshold {s : State} (ho : s.output = false) (th : Lane) (b : Bool) :
    State.filterStep { s with fallingThreshold := th } b = { s.filterStep b with fallingThreshold := th } := by
  have hl : State.level { s with fallingThreshold := th } b = s.level b := rfl
  have hs : schmitt s.output s.risingThreshold th (s.level b) =
      schmitt s.output s.risingThreshold s.fallingThreshold (s.level b) := by simp [schmitt, ho]
  unfold State.filterStep
  simp only [hl, hs]
  split <;> rfl

/-! ## The packed word (R104)

The packed sequence is followed with a number in each lane: no sum of a low lane carries, and a masked shift moves each lane by
itself.
-/

/-- A packed word with a number in each lane. -/
def packLanes (hi lo : Nat) : BitVec 16 := BitVec.ofNat 8 hi ++ BitVec.ofNat 8 lo

theorem packLanes_toNat (hi lo : Nat) : (packLanes hi lo).toNat = hi % 256 * 256 + lo % 256 := by
  have happ := BitVec.toNat_append (BitVec.ofNat 8 hi) (BitVec.ofNat 8 lo)
  rwa [← Nat.shiftLeft_add_eq_or_of_lt (BitVec.isLt _), Nat.shiftLeft_eq, BitVec.toNat_ofNat, BitVec.toNat_ofNat] at happ

/-- Words add lane by lane while the low lanes carry nothing over (R103). -/
theorem packLanes_add (a c : Nat) {b d : Nat} (h : b + d < 256) :
    packLanes a b + packLanes c d = packLanes (a + c) (b + d) := by
  apply BitVec.eq_of_toNat_eq
  rw [BitVec.toNat_add]
  simp only [packLanes_toNat]
  omega

theorem ite_packLanes_add (p : Bool) (a c : Nat) {b d : Nat} (h : b + d < 256) :
    (if p then packLanes a b + packLanes c d else packLanes a b) =
      packLanes (a + if p then c else 0) (b + if p then d else 0) := by
  cases p <;> simp [packLanes_add, h]

/-- The bits of a lane that a right shift by `k` fills: the masks of R104 are made of these. -/
def laneMask (k : Nat) : Lane := BitVec.allOnes 8 >>> k

theorem getLsbD_laneMask (k i : Nat) : (laneMask k).getLsbD i = decide (k + i < 8) := by
  rw [laneMask, BitVec.getLsbD_ushiftRight, BitVec.getLsbD_allOnes]

theorem ofNat_shiftRight (l : Lane) (k : Nat) : BitVec.ofNat 8 (l.toNat >>> k) = l >>> k := by
  rw [← BitVec.toNat_ushiftRight, BitVec.ofNat_toNat, BitVec.setWidth_eq]

/-- A masked right shift of the word shifts each of its lanes. -/
theorem append_shiftRight_and (u v : Lane) (k : Nat) :
    ((u ++ v) >>> k) &&& (laneMask k ++ laneMask k) = packLanes (u.toNat >>> k) (v.toNat >>> k) := by
  rw [packLanes, ofNat_shiftRight, ofNat_shiftRight]
  apply BitVec.eq_of_getLsbD_eq
  intro i hi
  simp only [BitVec.getLsbD_and, BitVec.getLsbD_ushiftRight, BitVec.getLsbD_append, getLsbD_laneMask]
  grind

/-- A masked left shift by `8 - k` puts the low lane, shifted right by `k`, into the high one. -/
theorem append_shiftLeft_and (u v : Lane) {k : Nat} (hk : k ≤ 8) :
    ((u ++ v) <<< (8 - k)) &&& (laneMask k ++ 0#8) = packLanes (v.toNat >>> k) 0 := by
  rw [packLanes, ofNat_shiftRight]
  apply BitVec.eq_of_getLsbD_eq
  intro i hi
  simp only [BitVec.getLsbD_and, BitVec.getLsbD_shiftLeft, BitVec.getLsbD_ushiftRight, BitVec.getLsbD_append,
    getLsbD_laneMask, BitVec.getLsbD_zero]
  grind

theorem decay_add_sampleIncrement_lt (l : Lane) : decay l + sampleIncrement < 256 := by
  have := l.isLt
  simp only [decay, sampleIncrement, Nat.shiftRight_eq_div_pow]
  omega

theorem sum1_lt (l : Lane) (b : Bool) : sum1 l b < 256 := by
  have := decay_add_sampleIncrement_lt l
  rw [sum1]
  split <;> omega

/-- Step 1 of the packed sequence: both lanes times 3/4. -/
theorem packed_decay (u v : Lane) :
    (((u ++ v) >>> 1) &&& 0x7F7F#16) + (((u ++ v) >>> 2) &&& 0x3F3F#16) = packLanes (decay u) (decay v) := by
  have hlow : decay v < 256 := Nat.lt_of_le_of_lt (Nat.le_add_right _ _) (decay_add_sampleIncrement_lt v)
  have hshift : ∀ k, ((u ++ v) >>> k) &&& (laneMask k ++ laneMask k) = _ := append_shiftRight_and u v
  exact (congr (congrArg HAdd.hAdd (hshift 1)) (hshift 2)).trans (packLanes_add _ _ hlow)

/-- The packed sequence computes both lanes of the word side by side (R104). -/
theorem packedSum_append (u v : Lane) (b o : Bool) :
    packedSum (u ++ v) b o = newLane2 u (newLane1 v b) o ++ newLane1 v b := by
  have hsample : (if b then packLanes (decay u) (decay v) + 65#16 else packLanes (decay u) (decay v)) =
      packLanes (decay u) (sum1 v b) :=
    (ite_packLanes_add b (decay u) 0 (decay_add_sampleIncrement_lt v)).trans (by simp [sum1])
  have hcarry : (packLanes (decay u) (sum1 v b) <<< 6) &&& 0x3F00#16 = packLanes ((newLane1 v b).toNat >>> 2) 0 :=
    append_shiftLeft_and (BitVec.ofNat 8 (decay u)) (newLane1 v b) (k := 2) (by decide)
  have hlow : sum1 v b + 0 < 256 := sum1_lt v b
  simp only [packedSum, packed_decay, hsample, hcarry, packLanes_add _ _ hlow]
  refine (ite_packLanes_add o _ feedbackIncrement (d := 0) hlow).trans ?_
  simp [packLanes, newLane1, newLane2, sum2]

/-! ## The dropped bit (R111) -/

theorem extractLsb'_one_append (u v : Lane) : (u ++ v).extractLsb' 1 7 = store v :=
  BitVec.extractLsb'_append_eq_of_add_le (by decide)

theorem extractLsb'_nine_append (u v : Lane) : (u ++ v).extractLsb' 9 7 = store u :=
  BitVec.extractLsb'_append_eq_of_le (by decide)

theorem exists_eq_append (f : BitVec 16) : ∃ u v : Lane, f = u ++ v :=
  ⟨f.extractLsb' 8 8, f.extractLsb' 0 8,
    ((BitVec.extractLsb'_append_extractLsb'_eq_extractLsb' (x := f) (start₂ := 8) (start₁ := 0) (len₁ := 8) (len₂ := 8) rfl).trans
      BitVec.extractLsb'_eq_self).symm⟩

/-- Decay does not see the bit that storing drops (R111). -/
theorem decay_lane_store (l : Lane) : decay (lane (store l)) = decay l := by
  rw [decay_lane, store_toNat, decay, Nat.shiftRight_eq_div_pow, Nat.shiftRight_eq_div_pow]
  omega

/-- Settles O31: the word is its two lanes, and decay sees of each the stage alone. -/
theorem packedSumIsBothLanes : Obligations.PackedSumIsBothLanes := by
  intro s f b h2 h1
  obtain ⟨u, v, rfl⟩ := exists_eq_append f
  rw [extractLsb'_nine_append] at h2
  rw [extractLsb'_one_append] at h1
  have hn1 : s.n1 b = newLane1 v b := by
    rw [State.n1, ← h1, newLane1, sum1, decay_lane_store]
    rfl
  have hn2 : s.n2 b = newLane2 u (newLane1 v b) s.output := by
    rw [State.n2, hn1, ← h2, newLane2, sum2, decay_lane_store]
    rfl
  rw [hn1, hn2, packedSum_append]

/-- The words that the packed form loads at an edge hold the extreme in both lanes (R106, R107). -/
theorem extremeWord_stages : ∀ o : Bool,
    (if o then 0xFEFE#16 else 0x0000#16).extractLsb' 9 7 = saturated o ∧
    (if o then 0xFEFE#16 else 0x0000#16).extractLsb' 1 7 = saturated o := by decide

/-- A filter step of the packed form goes along with one of the registers (R104, R111). -/
theorem PackedFilter.represents_step {f : PackedFilter} {s : State} (h : f.represents s) (b : Bool) :
    (f.step s.risingThreshold s.fallingThreshold b).represents (s.filterStep b) := by
  obtain ⟨h2, h1, ho, -⟩ := h
  have hsum : packedSum f.word b s.output = s.n2 b ++ s.n1 b := packedSumIsBothLanes s f.word b h2 h1
  have hlevel : (packedSum f.word b s.output).extractLsb' 8 8 = s.level b := by
    rw [hsum]
    exact BitVec.extractLsb'_append_eq_left
  simp only [PackedFilter.step, State.filterStep, ho, hlevel]
  cases schmitt s.output s.risingThreshold s.fallingThreshold (s.level b) with
  | falling =>
    obtain ⟨hlow2, hlow1⟩ := extremeWord_stages false
    exact ⟨hlow2, hlow1, rfl, rfl⟩
  | rising =>
    obtain ⟨hhigh2, hhigh1⟩ := extremeWord_stages true
    exact ⟨hhigh2, hhigh1, rfl, rfl⟩
  | hold =>
    rw [hsum]
    exact ⟨extractLsb'_nine_append _ _, extractLsb'_one_append _ _, rfl, rfl⟩

/-! ## Runs of samples -/

/-- A run of FSAMPs completes: it folds the filter step over its samples (R121). -/
theorem sampleRun_eq_foldl (bs : List Bool) (s : State) : sampleRun bs s = .next (bs.foldl State.filterStep s) := by
  induction bs generalizing s with
  | nil => rfl
  | cons b bs ih => exact ih (s.filterStep b)

theorem PackedFilter.represents_foldl {f : PackedFilter} {s : State} (h : f.represents s) (bs : List Bool) :
    (bs.foldl (PackedFilter.step s.risingThreshold s.fallingThreshold) f).represents (bs.foldl State.filterStep s) := by
  induction bs generalizing f s with
  | nil => exact h
  | cons b bs ih => simpa using ih (represents_step h b)

/-- Settles O32: the represented states are carried along by each sample, at thresholds that no sample writes. -/
theorem packedFilterAgrees : Obligations.PackedFilterAgrees :=
  fun bs s _ h => ⟨_, sampleRun_eq_foldl bs s, PackedFilter.represents_foldl h bs⟩

/-! ## The reachable levels (R113) -/

/-- The bounds on stage 2 speak of `stage2` and `output` alone. -/
theorem State.levelBounded_congr {s t : State} (h2 : t.stage2 = s.stage2) (ho : t.output = s.output) :
    t.levelBounded ↔ s.levelBounded := by
  rw [State.levelBounded, State.levelBounded, h2, ho]

/-- Both extremes keep the bounds of their own output. -/
theorem State.levelBounded_of_saturated {s : State} (h2 : s.stage2 = saturated s.output) : s.levelBounded := by
  rw [State.levelBounded, h2]
  cases s.output <;> decide

theorem State.level_le_of_levelBounded {s : State} (h : s.levelBounded) (ho : s.output = false) (b : Bool) :
    (s.level b).toNat ≤ 247 := by
  obtain ⟨hlow, -⟩ := h
  have h2 := hlow ho
  have h1 := s.stage1.isLt
  rw [State.level_toNat, levelFormula, ho, if_neg Bool.false_ne_true]
  split <;> omega

theorem State.le_level_of_levelBounded {s : State} (h : s.levelBounded) (ho : s.output = true) (b : Bool) :
    8 ≤ (s.level b).toNat := by
  obtain ⟨-, hhigh⟩ := h
  have h2 := hhigh ho
  rw [State.level_toNat, levelFormula, ho, if_pos rfl]
  omega

/-- A filter step keeps the bounds: a stored level is half of one, and 247 / 2 and 8 / 2 are the bounds again. -/
theorem State.filterStep_levelBounded {s : State} (h : s.levelBounded) (b : Bool) : (s.filterStep b).levelBounded := by
  obtain ⟨-, -, hs⟩ | ⟨-, -, hs⟩ | ⟨-, -, hs⟩ := s.filterStep_cases b
  · rw [hs]
    exact levelBounded_of_saturated rfl
  · rw [hs]
    exact levelBounded_of_saturated rfl
  · rw [hs, State.levelBounded, State.smooth_output, State.smooth_stage2, store_toNat]
    refine ⟨fun ho => ?_, fun ho => ?_⟩
    · exact Nat.div_le_div_right (c := 2) (level_le_of_levelBounded h ho b)
    · exact Nat.div_le_div_right (c := 2) (le_level_of_levelBounded h ho b)

/-- Settles O37: a step saturates stage 2, takes a filter step, or keeps stage 2 and `output`. -/
theorem stepKeepsLevelBounds : Obligations.StepKeepsLevelBounds := by
  intro s t hs h
  obtain ⟨-, rfl⟩ | ⟨-, u, hu, rfl⟩ := step_next_cases h
  · exact State.levelBounded_of_saturated (by simp)
  · rw [State.levelBounded_congr u.advance_stage2 u.advance_output]
    obtain ⟨-, rfl⟩ | ⟨b, -, rfl⟩ | ⟨b, -, rfl⟩ | ⟨b, -, -, rfl⟩ | ⟨b, -, -, rfl⟩ | ⟨d, -, rfl⟩ | ⟨d, -, rfl⟩ :=
      exec_next_cases hu
    · exact hs
    · exact State.levelBounded_of_saturated rfl
    · exact State.filterStep_levelBounded hs b
    · exact hs
    · exact State.filterStep_levelBounded hs b
    · exact hs
    · exact hs

/-- Settles O38: both kinds of reset load stage 2 with the extreme of the output they load. -/
theorem resetGivesLevelBounds : Obligations.ResetGivesLevelBounds := by
  refine ⟨State.levelBounded_of_saturated rfl, fun s t h hreset => State.levelBounded_of_saturated ?_⟩
  obtain ⟨-, rfl⟩ | ⟨hr, u, hu, rfl⟩ := step_next_cases h
  · simp
  · obtain ⟨b, hb⟩ := hreset.resolve_left (by simp [hr])
    rw [State.fetch, hb] at hu
    cases hu
    simp

/-- Settles O39: the bounds on stage 2 hold at the end of every run from a reset, and bound the level there. -/
theorem levelsStayInReach : Obligations.LevelsStayInReach := by
  intro k s t u hreset ht hu
  obtain ⟨-, hbounded⟩ := resetGivesLevelBounds
  have hb : u.levelBounded := run_induction stepKeepsLevelBounds k t u (hbounded s t ht hreset) hu
  refine ⟨fun b => ⟨fun ho => State.level_le_of_levelBounded hb ho b, fun ho => State.le_level_of_levelBounded hb ho b⟩,
    fun i b v ha hv => ?_⟩
  obtain ⟨hout, -⟩ := exec_flags_of_accepted ha hv
  rw [hout]
  refine ⟨fun hth ho => ?_, fun hth ho => ?_⟩
  · have hle := State.level_le_of_levelBounded hb ho b
    rw [← Bool.not_eq_true, State.filterStep_output_of_low ho, ← State.level_toNat]
    omega
  · have hle := State.le_level_of_levelBounded hb ho b
    rw [← Bool.not_eq_false, State.filterStep_output_of_high ho, ← State.level_toNat]
    omega

/-! ## Constant opposite samples at the default thresholds (R114) -/

/-- The stages after `k` samples `b` on the smoothing path, from the extreme of the other output. -/
def oppositeStages (b : Bool) : Nat → Stage × Stage
  | 0 => (saturated (!b), saturated (!b))
  | k + 1 =>
    let n1 := newLane1 (lane (oppositeStages b k).1) b
    (store n1, store (newLane2 (lane (oppositeStages b k).2) n1 (!b)))

/-- The level of the sample after these. -/
def oppositeLevel (b : Bool) (k : Nat) : Lane :=
  newLane2 (lane (oppositeStages b k).2) (newLane1 (lane (oppositeStages b k).1) b) (!b)

/-- A state that is `k` smoothed samples `b` away from the extreme of the other output, with the threshold it compares at its
default. -/
structure State.Opposed (b : Bool) (k : Nat) (s : State) : Prop where
  stages : (s.stage1, s.stage2) = oppositeStages b k
  output : s.output = !b
  rising : b = true → s.risingThreshold = risingDefault
  falling : b = false → s.fallingThreshold = fallingDefault

/-- The levels of R114. -/
theorem oppositeLevel_eq : ∀ k < 7,
    (oppositeLevel true k).toNat = [16, 40, 67, 93, 118, 141, 161].getD k 0 ∧
    (oppositeLevel false k).toNat = [239, 215, 188, 162, 137, 114, 94].getD k 0 := by decide

/-- Of these levels the seventh is the first to cross its default threshold. -/
theorem schmitt_oppositeLevel : ∀ b, ∀ k < 7, schmitt (!b) risingDefault fallingDefault (oppositeLevel b k) =
    if k < 6 then .hold else if b then .rising else .falling := by decide

namespace State.Opposed

variable {s : State} {b : Bool} {k : Nat}

theorem level_eq (h : s.Opposed b k) : s.level b = oppositeLevel b k := by
  obtain ⟨hst, ho, -, -⟩ := h
  rw [oppositeLevel, ← hst, ← ho]
  rfl

theorem schmitt_eq (h : s.Opposed b k) (hk : k < 7) :
    schmitt s.output s.risingThreshold s.fallingThreshold (s.level b) =
      if k < 6 then .hold else if b then .rising else .falling := by
  rw [← schmitt_oppositeLevel b k hk, h.level_eq, h.output]
  cases b with
  | true => simp [schmitt, h.rising rfl]
  | false => simp [schmitt, h.falling rfl]

theorem filterStep (h : s.Opposed b k) (hk : k < 6) : (s.filterStep b).Opposed b (k + 1) := by
  have hs := h.schmitt_eq (by omega)
  rw [if_pos hk] at hs
  obtain ⟨hst, ho, hr, hf⟩ := h
  simp only [State.filterStep, hs]
  refine ⟨?_, ho, hr, hf⟩
  rw [oppositeStages, ← hst, ← ho]
  rfl

theorem filterStep_six (h : s.Opposed b 6) : s.filterStep b = s.saturate b true := by
  have hs := h.schmitt_eq (by omega)
  simp only [State.filterStep, hs]
  cases b <;> rfl

theorem foldl_replicate (h : s.Opposed b 0) (hk : k < 7) :
    ((List.replicate k b).foldl State.filterStep s).Opposed b k := by
  induction k with
  | zero => exact h
  | succ k ih =>
    rw [List.replicate_succ', List.foldl_append]
    exact (ih (by omega)).filterStep (by omega)

/-- Up to the seventh sample `output` holds, at the levels of the table; the seventh flips it. -/
theorem sampleRun_replicate (h : s.Opposed b 0) :
    (∀ k < 7, ∃ t, sampleRun (List.replicate k b) s = .next t ∧ t.output = !b ∧ t.level b = oppositeLevel b k) ∧
    ∃ t, sampleRun (List.replicate 7 b) s = .next t ∧ t.output = b ∧ t.changed = true := by
  refine ⟨fun k hk => ?_, ?_⟩
  · have ht := h.foldl_replicate hk
    exact ⟨_, sampleRun_eq_foldl _ s, ht.output, ht.level_eq⟩
  · have hseven := (h.foldl_replicate (k := 6) (by omega)).filterStep_six
    rw [List.replicate_succ', sampleRun_eq_foldl, List.foldl_append, List.foldl_cons, hseven]
    exact ⟨_, rfl, rfl, rfl⟩

end State.Opposed

/-! ## Transitions (R115) -/

/-- A filter step that flips `output` loads the extreme of the new one (R106, R107). -/
theorem State.filterStep_of_flip {s : State} {b : Bool} (h : (s.filterStep b).output ≠ s.output) :
    s.filterStep b = s.saturate (s.filterStep b).output true := by
  obtain ⟨-, -, hs⟩ | ⟨-, -, hs⟩ | ⟨-, -, hs⟩ := s.filterStep_cases b
  · simp [hs]
  · simp [hs]
  · simp [hs] at h

/-- An accepted sample leaves the four filter registers and both thresholds as the filter step does (R121, R122). -/
theorem exec_filter_of_accepted {i : Instr} {s t : State} {b : Bool} (ha : acceptedSample i s = some b)
    (h : exec i s = .next t) : ∃ x, t = { s.filterStep b with lastSampleTick := x } := by
  obtain he | he := exec_of_accepted ha <;> rw [he] at h <;> cases h
  · exact ⟨(s.filterStep b).lastSampleTick, rfl⟩
  · exact ⟨s.tick, rfl⟩

/-! ## The obligations -/

/-- Settles O8: the word by its fields, the step by the pseudocode. -/
theorem fsampIsTheFilterStep : Obligations.FsampIsTheFilterStep :=
  ⟨fun _ hw => (decode_of_row hw).trans (decode_packFields_op2 _ _), fun s b => by
    rw [exec_fsamp, State.filterStep_eq_formula]⟩

/-- Settles O7: what RESET writes does not depend on the state before it. -/
theorem resetCommandLoadsTheExtreme : Obligations.ResetCommandLoadsTheExtreme := by
  refine ⟨fun _ hw => (decode_of_row hw).trans (decode_packFields_op1 _ _), fun s b => rfl, fun s t b h => ?_⟩
  cases h
  exact ⟨rfl, rfl, rfl⟩

/-- Settles O9: ASAMP and FSAMP take the one filter step, which reads no input. -/
theorem asampActsAsFsamp : Obligations.AsampActsAsFsamp := by
  refine ⟨fun _ hw => (decode_of_row hw).trans (decode_packFields_op3 _ _), fun s b => ?_⟩
  rw [← State.filterStep_eq_formula]
  refine ⟨exec_asamp s b, rfl, s.filterStep_lastSampleTick b, fun n => ?_⟩
  rw [exec_asamp, State.filterStep_with_pins]

/-- Settles O30: the sums over the natural numbers stay below 256, and the maxima by arithmetic. -/
theorem filterSumsNeverWrap : Obligations.FilterSumsNeverWrap := by
  refine ⟨fun s b => ⟨s.n1_toNat b, s.level_toNat b⟩, fun s h1 => ?_, fun s b h2 hn ho => ?_⟩
  · rw [State.n1, h1]
    rfl
  · have hlt := (s.n1 b).isLt
    have hq : (s.n1 b).toNat >>> 2 = 63 := by
      rw [Nat.shiftRight_eq_div_pow]
      omega
    rw [State.n2, newLane2, sum2, hq, h2, ho]
    rfl

/-- Settles O33: the three cases of the filter step, in each of which `output` tells which threshold was read. -/
theorem oneThresholdIsRead : Obligations.OneThresholdIsRead := by
  refine ⟨fun s b => ⟨_, exec_fsamp s b, ?_⟩, fun s t b th h => ?_⟩
  · rw [← State.level_toNat]
    obtain ⟨ho, hl, h⟩ | ⟨ho, hl, h⟩ | ⟨hf, hr, h⟩ := s.filterStep_cases b
    · simp [h, ho, hl]
    · simp [h, ho, hl]
    · refine .inr (.inr ⟨?_, ?_, by rw [h]; rfl, by rw [h]; rfl⟩)
      · exact fun ⟨ho, hl⟩ => Nat.not_lt.mpr (hf ho) hl
      · exact fun ⟨ho, hl⟩ => Nat.not_lt.mpr (hr ho) hl
  · cases h
    exact ⟨fun ho => congrArg _ (State.filterStep_with_risingThreshold ho th b),
      fun ho => congrArg _ (State.filterStep_with_fallingThreshold ho th b)⟩

/-- No threshold lies above level 255 or below level 0, so an extreme holds under its own sample, and its sums are stored as the
extreme again (R112). -/
theorem State.filterStep_of_saturated {s : State} {b : Bool} (h1 : s.stage1 = saturated b) (h2 : s.stage2 = saturated b)
    (ho : s.output = b) :
    s.n1 b = BitVec.fill 8 b ∧ s.n2 b = BitVec.fill 8 b ∧ s.filterStep b = { s with changed := false } := by
  have hn1 : s.n1 b = BitVec.fill 8 b := by
    rw [State.n1, h1]
    cases b <;> rfl
  have hn2 : s.n2 b = BitVec.fill 8 b := by
    rw [State.n2, hn1, h2, ho]
    cases b <;> rfl
  have hstore : store (BitVec.fill 8 b) = saturated b := by cases b <;> rfl
  refine ⟨hn1, hn2, ?_⟩
  obtain ⟨hb, hl, -⟩ | ⟨hb, hl, -⟩ | ⟨-, -, hs⟩ := s.filterStep_cases b
  · have hlevel : s.level b = 255#8 := by rw [State.level, hn2, ← ho, hb]; rfl
    have := s.fallingThreshold.isLt
    simp only [hlevel, BitVec.toNat_ofNat] at hl
    omega
  · have hlevel : s.level b = 0#8 := by rw [State.level, hn2, ← ho, hb]; rfl
    simp [hlevel] at hl
  · simp [hs, State.smooth, hn1, hn2, hstore, h1, h2]

/-- Settles O34: the two extremes. -/
theorem saturatedStatesAreFixed : Obligations.SaturatedStatesAreFixed := by
  refine ⟨fun s h1 h2 ho => ?_, fun s h1 h2 ho => ?_⟩
  · obtain ⟨hn1, hn2, hs⟩ := State.filterStep_of_saturated (b := true) h1 h2 ho
    exact ⟨hn1, hn2, congrArg _ hs⟩
  · obtain ⟨hn1, hn2, hs⟩ := State.filterStep_of_saturated (b := false) h1 h2 ho
    exact ⟨hn1, hn2, congrArg _ hs⟩

/-- Settles O15: from the extremes the levels are 16 and 239, and the sample of the extreme itself is a fixed point (R112). -/
theorem firstSampleAfterResetCommand : Obligations.FirstSampleAfterResetCommand := by
  obtain ⟨hhigh, hlow⟩ := saturatedStatesAreFixed
  refine fun s t => ⟨fun h => ?_, fun h => ?_⟩ <;> cases h
  · obtain ⟨-, -, hfixed⟩ := hlow (s.saturate false false) rfl rfl rfl
    refine ⟨⟨_, exec_fsamp _ _, ?_⟩, hfixed⟩
    have hl : levelFormula (s.saturate false false) true = 15 + 1 := by simp [levelFormula, saturated]
    rw [State.filterStep_output_of_low rfl, hl]
    exact Nat.lt_add_one_iff
  · obtain ⟨-, -, hfixed⟩ := hhigh (s.saturate true false) rfl rfl rfl
    refine ⟨⟨_, exec_fsamp _ _, ?_⟩, hfixed⟩
    have hl : levelFormula (s.saturate true false) false = 239 := by simp [levelFormula, saturated]
    rw [State.filterStep_output_of_high rfl, hl]
    exact Nat.lt_iff_add_one_le

theorem exec_keeps_inputs {i : Instr} {s t : State} (h : exec i s = .next t) :
    t.tickReset = s.tickReset ∧ t.pins = s.pins ∧ t.later = s.later := by
  cases i with
  | nop | reset | wrise | wfall => cases h; exact ⟨rfl, rfl, rfl⟩
  | fsamp | asamp => cases h; simp
  | rlsamp => cases h; split <;> simp
  | reserved => cases h

/-- A suppressed RLSAMP keeps the tick too (41_rate_limiter.md R153). -/
theorem exec_keeps_lastSampleTick_of_not_accepted_rlsamp {i : Instr} {s t : State} (h : exec i s = .next t)
    (hi : ∀ b, i = .rlsamp b → s.sameTick = true) : t.lastSampleTick = s.lastSampleTick := by
  by_cases hr : ∃ b, i = .rlsamp b
  · obtain ⟨b, rfl⟩ := hr
    cases h
    simp [hi b rfl]
  · exact exec_keeps_lastSampleTick h (not_exists.mp hr)

/-- Settles O22: register by register, who keeps it; the threshold writes by their two meanings. -/
theorem commandFrame : Obligations.CommandFrame := by
  intro i s t h
  obtain ⟨hreset, hpins, hlater⟩ := exec_keeps_inputs h
  refine ⟨hreset, hpins, hlater, exec_keeps_risingThreshold h, exec_keeps_fallingThreshold h,
    exec_keeps_lastSampleTick_of_not_accepted_rlsamp h, ?_⟩
  rintro ⟨d, rfl | rfl⟩ <;> cases h <;> exact ⟨rfl, rfl, rfl, rfl, rfl⟩

/-- Settles O35: the two reset states are the two starts of the walk through the opposite levels. -/
theorem seventhSampleFlipsAtDefaults : Obligations.SeventhSampleFlipsAtDefaults := by
  refine ⟨fun s h1 h2 ho hth => ?_, fun s h1 h2 ho hth => ?_⟩
  · obtain ⟨hbefore, hflip⟩ := State.Opposed.sampleRun_replicate (s := s) (b := true)
      ⟨by rw [h1, h2]; rfl, ho, fun _ => hth, nofun⟩
    refine ⟨fun k => ?_, hflip⟩
    obtain ⟨t, ht, hout, hl⟩ := hbefore k k.isLt
    obtain ⟨hlevel, -⟩ := oppositeLevel_eq k k.isLt
    exact ⟨t, ht, hout, by rw [hl, hlevel]⟩
  · obtain ⟨hbefore, hflip⟩ := State.Opposed.sampleRun_replicate (s := s) (b := false)
      ⟨by rw [h1, h2]; rfl, ho, nofun, fun _ => hth⟩
    refine ⟨fun k => ?_, hflip⟩
    obtain ⟨t, ht, hout, hl⟩ := hbefore k k.isLt
    obtain ⟨-, hlevel⟩ := oppositeLevel_eq k k.isLt
    exact ⟨t, ht, hout, by rw [hl, hlevel]⟩

/-- Settles O36: a flip loads the extreme of the new output, where the walk through the opposite levels starts. -/
theorem transitionSaturatesTheFilter : Obligations.TransitionSaturatesTheFilter := by
  intro i b s t ha h hflip
  obtain ⟨x, rfl⟩ := exec_filter_of_accepted ha h
  have hs := State.filterStep_of_flip hflip
  generalize (s.filterStep b).output = o at hs
  rw [hs]
  refine ⟨⟨_, rfl, rfl, rfl, rfl, rfl⟩, fun hr hf k hk => ?_⟩
  have hstart : State.Opposed (!o) 0 { s.saturate o true with lastSampleTick := x } :=
    ⟨by rw [oppositeStages, Bool.not_not]; rfl, (Bool.not_not o).symm, fun _ => hr, fun _ => hf⟩
  obtain ⟨hbefore, -⟩ := hstart.sampleRun_replicate
  obtain ⟨v, hv, hout, -⟩ := hbefore k hk
  exact ⟨v, hv, hout.trans (Bool.not_not o)⟩

end Sys2Proof.Machine

/-!
# The rate limiter (41_rate_limiter.md)

An RLSAMP leaves the tick of its own edge in `last_sample_tick` on both of its paths. So in a run of RLSAMPs an edge is accepted
exactly when its tick differs from the one before it, and the clock alone says how many samples the filter has folded in.
-/

namespace Sys2Proof.Machine

/-! ## Ticks (R150, R157) -/

theorem tickOf_eq_iff (m n : Nat) : tickOf m = tickOf n ↔ m / 4 % 256 = n / 4 % 256 := by
  rw [← BitVec.toNat_inj, tickOf_toNat, tickOf_toNat]

theorem getLsbD_tickOf (n i : Nat) : (tickOf n).getLsbD i = (decide (i < 8) && n.testBit (i + 2)) := by
  simp [tickOf, BitVec.getLsbD_ofNat, Nat.add_comm]

/-- Settles O40: the tick bit by bit, and its value by division. -/
theorem tickIsBitsNineToTwo : Obligations.TickIsBitsNineToTwo := by
  have hbits : ∀ n m : Nat, (∀ j, 2 ≤ j → j ≤ 9 → n.testBit j = m.testBit j) → tickOf n = tickOf m := by
    intro n m h
    apply BitVec.eq_of_getLsbD_eq
    intro i hi
    rw [getLsbD_tickOf, getLsbD_tickOf, h (i + 2) (by omega) (by omega)]
  refine ⟨tickOf_toNat, fun w n hw => hbits _ _ fun j _ hj => ?_, hbits, fun k n hlo hhi => ?_⟩
  · have hjw : j < w := Nat.lt_of_le_of_lt hj hw
    simp [Nat.testBit_mod_two_pow, hjw]
  · rw [tickOf_toNat, show n / 4 = k by omega]

/-- Settles O42, by arithmetic on the window numbers `t / 4`. -/
theorem ticksAliasByWindowDistance : Obligations.TicksAliasByWindowDistance := by
  refine ⟨fun t1 t2 h => ⟨?_, fun hlo hhi => ?_, fun hd => ?_⟩, fun g hg => ⟨0, ?_⟩, ⟨3, by decide⟩⟩
  · rw [tickOf_eq_iff]
    omega
  · rw [Ne, tickOf_eq_iff]
    omega
  · rw [tickOf_eq_iff]
    omega
  · rw [tickOf_eq_iff]
    omega

/-! ## The two paths of RLSAMP (R151–R155) -/

theorem State.sameTick_iff (s : State) : s.sameTick = true ↔ tickOf s.pins.nowMs = s.lastSampleTick := beq_iff_eq

theorem State.sameTick_eq_false_iff (s : State) : s.sameTick = false ↔ tickOf s.pins.nowMs ≠ s.lastSampleTick :=
  beq_eq_false_iff_ne

/-- Settles O11: the two paths by the comparator. -/
theorem rateLimiterTakesOnePath : Obligations.RateLimiterTakesOnePath := by
  refine fun s b => ⟨fun h => ?_, fun h => ⟨_, exec_fsamp s b, ?_⟩⟩
  · rw [exec_rlsamp, if_pos (s.sameTick_iff.mpr h)]
    rfl
  · rw [exec_rlsamp, if_neg fun hs => h (s.sameTick_iff.mp hs)]
    rfl

/-- Settles O10: the word by its fields, the paths by the comparator, the wrap by arithmetic. -/
theorem rlsampComparesTheTick : Obligations.RlsampComparesTheTick := by
  refine ⟨fun _ hw => (decode_of_row hw).trans (decode_packFields_op4 _ _), fun s b => ?_, by decide, by decide, fun n => ?_,
    fun s b => ?_⟩
  · simp only [exec_rlsamp, s.sameTick_iff, ← s.tick_eq, ← State.filterStep_eq_formula]
    rfl
  · rw [tickOf_eq_iff]
    omega
  · rw [acceptedSample_rlsamp_eq_none, State.sameTick_iff]
    rfl

/-! ## Other commands (R159) -/

/-- No filter step reads the tick register (R154). -/
theorem State.filterStep_with_lastSampleTick (s : State) (x : Tick) (b : Bool) :
    State.filterStep { s with lastSampleTick := x } b = { s.filterStep b with lastSampleTick := x } := by
  have hl : State.level { s with lastSampleTick := x } b = s.level b := rfl
  unfold State.filterStep
  simp only [hl]
  split <;> rfl

theorem exec_with_lastSampleTick {i : Instr} {s t : State} (hi : ∀ b, i ≠ .rlsamp b) (h : exec i s = .next t) (x : Tick) :
    exec i { s with lastSampleTick := x } = .next { t with lastSampleTick := x } := by
  cases i with
  | rlsamp b => exact absurd rfl (hi b)
  | nop | reset | wrise | wfall => cases h; rfl
  | fsamp b | asamp b => cases h; simp [State.filterStep_with_lastSampleTick]
  | reserved => cases h

/-- Settles O44: such a command keeps both sides of the tick comparison. -/
theorem otherCommandsIgnoreTheTick : Obligations.OtherCommandsIgnoreTheTick := by
  refine ⟨fun i s t hi h => ?_, fun s t b c _ _ => by rw [exec_fsamp, State.filterStep_eq_formula]⟩
  have htick := exec_keeps_lastSampleTick h hi
  obtain ⟨-, hpins, -⟩ := exec_keeps_inputs h
  refine ⟨htick, fun b => ?_, exec_with_lastSampleTick hi h⟩
  rw [acceptedSample_rlsamp_eq_none, acceptedSample_rlsamp_eq_none, State.sameTick_iff, State.sameTick_iff, htick, hpins]

/-! ## Runs along what the host has scheduled -/

/-- A step takes the next inputs off the schedule. -/
theorem step_next_inputs {s t : State} (h : step s = .next t) {p : Pins} {ps : List Pins} (hl : s.later = p :: ps) :
    t.pins = p ∧ t.later = ps := by
  have hadv : ∃ u : State, u.later = s.later ∧ t = u.advance := by
    obtain ⟨-, rfl⟩ | ⟨-, u, hu, rfl⟩ := step_next_cases h
    · exact ⟨s.powerOn, rfl, rfl⟩
    · obtain ⟨-, -, hlater⟩ := exec_keeps_inputs hu
      exact ⟨u, hlater, rfl⟩
  obtain ⟨u, hu, rfl⟩ := hadv
  rw [u.advance_of_cons p ps (hu.trans hl)]
  exact ⟨rfl, rfl⟩

/-- Inputs that follow each other: `A` relates the inputs of each edge to those of the edge before. -/
def Successive (A : Pins → Pins → Prop) : Pins → List Pins → Prop
  | _, [] => True
  | p, q :: qs => A p q ∧ Successive A q qs

theorem successive_cons {A : Pins → Pins → Prop} {p q : Pins} {qs : List Pins} :
    Successive A p (q :: qs) ↔ A p q ∧ Successive A q qs := Iff.rfl

theorem successive_of_pairwise {A : Pins → Pins → Prop} {p : Pins} {ps : List Pins} (h : (p :: ps).Pairwise A) :
    Successive A p ps := by
  induction ps generalizing p with
  | nil => trivial
  | cons q qs ih =>
    obtain ⟨hp, hqs⟩ := List.pairwise_cons.mp h
    exact ⟨hp q List.mem_cons_self, ih hqs⟩

theorem successive_of_forall_mem {P : Pins → Prop} {p : Pins} {ps : List Pins} (h : ∀ q ∈ ps, P q) :
    Successive (fun _ q => P q) p ps := by
  induction ps generalizing p with
  | nil => trivial
  | cons q qs ih =>
    obtain ⟨hq, hqs⟩ := List.forall_mem_cons.mp h
    exact ⟨hq, ih hqs⟩

namespace Successive

variable {A B : Pins → Pins → Prop} {p : Pins} {ps : List Pins}

theorem and (hA : Successive A p ps) (hB : Successive B p ps) : Successive (fun p q => A p q ∧ B p q) p ps := by
  induction ps generalizing p with
  | nil => trivial
  | cons q qs ih =>
    obtain ⟨hpq, hqs⟩ := hA
    obtain ⟨hpq', hqs'⟩ := hB
    exact ⟨⟨hpq, hpq'⟩, ih hqs hqs'⟩

theorem take (h : Successive A p ps) (j : Nat) : Successive A p (ps.take j) := by
  induction ps generalizing p j with
  | nil => simpa using h
  | cons q qs ih =>
    obtain ⟨hpq, hqs⟩ := h
    cases j with
    | zero => trivial
    | succ j => exact ⟨hpq, ih hqs j⟩

end Successive

/-- A relation `I` between the inputs of an edge and the state after it, kept by every step whose inputs follow (`A`) those of the
edge before, holds at the end of a run over inputs that follow each other; the run completes, and the rest of the schedule
stands. -/
theorem run_of_successive {A : Pins → Pins → Prop} {I : Pins → State → Prop}
    (keep : ∀ p s, I p s → A p s.pins → ∃ t, step s = .next t ∧ I s.pins t) {ps rest : List Pins} {s s' : State}
    (hs : step s = .next s') (hI : I s.pins s') (hA : Successive A s.pins ps) (hl : s.later = ps ++ rest) :
    ∃ t : State, Host.Core.run core (ps.length + 1) s = .next t ∧ I (ps.getLastD s.pins) t ∧
      ∀ q qs, rest = q :: qs → t.pins = q ∧ t.later = qs := by
  induction ps generalizing s s' with
  | nil => exact ⟨s', (run_succ_of_next 0 hs).trans (run_zero s'), hI, fun q qs hr => step_next_inputs hs (hl.trans hr)⟩
  | cons p ps ih =>
    obtain ⟨hp, hps⟩ := step_next_inputs hs (p := p) (ps := ps ++ rest) hl
    obtain ⟨hfollows, htail⟩ := successive_cons.mp hA
    subst hp
    obtain ⟨t, ht, hIt⟩ := keep s.pins s' hI hfollows
    obtain ⟨u, hu, hIu, hrest⟩ := ih ht hIt htail hps
    exact ⟨u, (run_succ_of_next _ hs).trans hu, by rwa [List.getLastD_cons], hrest⟩

/-- The same up to the edge that takes the `j`-th inputs of the schedule. -/
theorem run_to_getElem {A : Pins → Pins → Prop} {I : Pins → State → Prop}
    (keep : ∀ p s, I p s → A p s.pins → ∃ t, step s = .next t ∧ I s.pins t) {ps rest : List Pins} {s s' : State}
    (hs : step s = .next s') (hI : I s.pins s') (hA : Successive A s.pins ps) (hl : s.later = ps ++ rest) {j : Nat}
    (hj : j < ps.length) :
    ∃ (p : Pins) (t : State), Host.Core.run core (j + 1) s = .next t ∧ I p t ∧ t.pins = ps[j] := by
  have hsplit : s.later = ps.take j ++ (ps[j] :: ps.drop (j + 1) ++ rest) := by
    rw [hl, List.getElem_cons_drop, ← List.append_assoc, List.take_append_drop]
  obtain ⟨t, ht, hIt, hnext⟩ := run_of_successive keep hs hI (hA.take j) hsplit
  obtain ⟨hpins, -⟩ := hnext _ _ rfl
  rw [List.length_take_of_le (Nat.le_of_lt hj)] at ht
  exact ⟨_, t, ht, hIt, hpins⟩

theorem fetch_of_isRlsamp {s : State} {b : Bool} (h : s.pins.isRlsamp b) : s.fetch = .rlsamp b := h.2

/-- An edge that runs an RLSAMP completes, by one of the two paths, and leaves its own tick in the register on both. -/
theorem step_of_isRlsamp {s : State} {b : Bool} (h : s.pins.isRlsamp b) :
    ∃ t, step s = .next t ∧ t.lastSampleTick = tickOf s.pins.nowMs ∧
      (tickOf s.pins.nowMs = s.lastSampleTick ∧ t = s.suppress.advance ∨
        tickOf s.pins.nowMs ≠ s.lastSampleTick ∧ t = (s.accept b).advance) := by
  obtain ⟨hr, hd⟩ := h
  refine ⟨_, step_of_exec_next hr (by rw [hd, exec_rlsamp]), ?_⟩
  cases hs : s.sameTick with
  | true =>
    have htick := s.sameTick_iff.mp hs
    exact ⟨by simp [htick], .inl ⟨htick, rfl⟩⟩
  | false => exact ⟨by simp [State.tick], .inr ⟨s.sameTick_eq_false_iff.mp hs, rfl⟩⟩

theorem acceptedSample_fetch_eq_none {s : State} {b : Bool} (h : s.pins.isRlsamp b) :
    acceptedSample s.fetch s = none ↔ tickOf s.pins.nowMs = s.lastSampleTick := by
  rw [fetch_of_isRlsamp h, acceptedSample_rlsamp_eq_none, State.sameTick_iff]

/-- The suppress path (R153). -/
theorem step_of_isRlsamp_of_tick_eq {s : State} {b : Bool} (h : s.pins.isRlsamp b)
    (ht : tickOf s.pins.nowMs = s.lastSampleTick) : step s = .next s.suppress.advance := by
  obtain ⟨t, hs, -, ⟨-, rfl⟩ | ⟨hne, -⟩⟩ := step_of_isRlsamp h
  · exact hs
  · exact absurd ht hne

/-! ## Coalescing (R158) -/

theorem tickOf_of_window {k n : Nat} (hlo : 4 * k ≤ n) (hhi : n ≤ 4 * k + 3) : tickOf n = tickOf (4 * k) := by
  rw [tickOf_eq_iff, show n / 4 = 4 * k / 4 by omega]

/-- Settles O43: after its first edge the run has the window's tick in the register. -/
theorem samplesInOneWindowCoalesce : Obligations.SamplesInOneWindowCoalesce := by
  intro s ps rest k hw hl
  have htick : ∀ p ∈ s.pins :: ps, (∃ b, p.isRlsamp b) ∧ tickOf p.nowMs = tickOf (4 * k) := fun p hp => by
    obtain ⟨hb, hlo, hhi⟩ := hw p hp
    exact ⟨hb, tickOf_of_window hlo hhi⟩
  obtain ⟨⟨b, hb⟩, hfirst⟩ := htick s.pins List.mem_cons_self
  refine ⟨?_, fun j hj => ?_⟩
  · have hk : s.lastSampleTick.toNat = k % 256 ↔ tickOf s.pins.nowMs = s.lastSampleTick := by
      rw [hfirst, ← BitVec.toNat_inj, tickOf_toNat, Nat.mul_div_cancel_left k (by decide), eq_comm]
    rw [fetch_of_isRlsamp hb, ne_comm, Ne, hk, ← State.sameTick_iff]
    simp [acceptedSample]
  · have hfollow := successive_of_forall_mem (p := s.pins) fun p hp => htick p (List.mem_cons_of_mem _ hp)
    obtain ⟨s', hs, hlast, -⟩ := step_of_isRlsamp hb
    obtain ⟨-, u, hu, hlu, hpins⟩ := run_to_getElem (I := fun _ t => t.lastSampleTick = tickOf (4 * k))
      (fun _ t _ ⟨⟨_, hc⟩, ht⟩ => by
        obtain ⟨v, hv, hlast, -⟩ := step_of_isRlsamp hc
        exact ⟨v, hv, hlast.trans ht⟩)
      hs (hlast.trans hfirst) hfollow hl hj
    obtain ⟨⟨c, hc⟩, hju⟩ := htick ps[j] (List.mem_cons_of_mem _ (List.getElem_mem hj))
    rw [← hpins] at hc hju
    have hsame : tickOf u.pins.nowMs = u.lastSampleTick := hju.trans hlu.symm
    exact ⟨u, _, hu, (acceptedSample_fetch_eq_none hc).mpr hsame, step_of_isRlsamp_of_tick_eq hc hsame,
      by simp, by simp, by simp, by simp⟩

/-! ## The first RLSAMP after power-on (R160) -/

theorem exec_next_of_wellFormed {i : Instr} (hi : i.wellFormed = true) (s : State) : ∃ t, exec i s = .next t := by
  cases i with
  | reserved => cases hi
  | nop | reset | fsamp | asamp | rlsamp | wrise | wfall => exact ⟨_, rfl⟩

/-- Settles O45: the reset edge loads TICK_RESET, and the commands up to the RLSAMP keep it. -/
theorem firstRlsampAfterPowerOn : Obligations.FirstRlsampAfterPowerOn := by
  intro s qs p ps b hr hq hl hp
  have hreset : step s = .next s.powerOn.advance := by simp [step, hr]
  obtain ⟨t, ht, htick, hnext⟩ := run_of_successive (I := fun _ t => t.lastSampleTick = s.tickReset)
    (fun _ u hu ⟨hur, hwf, hne⟩ => by
      obtain ⟨v, hv⟩ := exec_next_of_wellFormed hwf u
      have hkeep := exec_keeps_lastSampleTick hv hne
      exact ⟨v.advance, step_of_exec_next hur hv, by simp [hkeep, hu]⟩)
    hreset (by simp) (successive_of_forall_mem hq) hl
  obtain ⟨rfl, -⟩ := hnext p ps rfl
  obtain ⟨u, hu, -⟩ := step_of_isRlsamp hp
  refine ⟨t, u, ht, rfl, hu, by rw [acceptedSample_fetch_eq_none hp, htick], fun hs => ?_⟩
  have hsup : Host.Outcome.next u = .next t.suppress.advance :=
    hu.symm.trans (step_of_isRlsamp_of_tick_eq hp (hs.trans htick.symm))
  cases hsup
  simp [State.sameRegisters]

/-! ## The filter under RLSAMPs of one sample (R161) -/

/-- A state `k` accepted samples `b` after the extreme of the other output, at the default thresholds: the seventh sample flips
`output`, and further ones hold the extreme of `b` (40_filter.md R112, R114). -/
def State.Driven (b : Bool) (k : Nat) (s : State) : Prop :=
  if k < 7 then s.Opposed b k else s.stage1 = saturated b ∧ s.stage2 = saturated b ∧ s.output = b

namespace State.Driven

variable {s t : State} {b : Bool} {k : Nat}

theorem output_eq_iff (h : s.Driven b k) : s.output = b ↔ 7 ≤ k := by
  unfold State.Driven at h
  split at h
  · next hk => simp [h.output, hk]
  · next hk =>
    obtain ⟨-, -, ho⟩ := h
    simp [ho, Nat.not_lt.mp hk]

/-- It speaks of the filter registers and the thresholds alone. -/
theorem congr (h : s.Driven b k) (h1 : t.stage1 = s.stage1) (h2 : t.stage2 = s.stage2) (ho : t.output = s.output)
    (hr : t.risingThreshold = s.risingThreshold) (hf : t.fallingThreshold = s.fallingThreshold) : t.Driven b k := by
  unfold State.Driven at h ⊢
  split at h
  · next hk =>
    rw [if_pos hk]
    exact ⟨by rw [h1, h2, h.stages], by rw [ho, h.output], fun hb => by rw [hr, h.rising hb],
      fun hb => by rw [hf, h.falling hb]⟩
  · next hk => rwa [if_neg hk, h1, h2, ho]

theorem filterStep (h : s.Driven b k) : (s.filterStep b).Driven b (k + 1) := by
  unfold State.Driven at h ⊢
  obtain hk | rfl | hk : k < 6 ∨ k = 6 ∨ 7 ≤ k := by omega
  · rw [if_pos (by omega)] at h ⊢
    exact h.filterStep hk
  · rw [if_pos (by decide)] at h
    rw [if_neg (by decide), h.filterStep_six]
    exact ⟨rfl, rfl, rfl⟩
  · rw [if_neg (by omega)] at h ⊢
    obtain ⟨h1, h2, ho⟩ := h
    obtain ⟨-, -, hs⟩ := State.filterStep_of_saturated h1 h2 ho
    rw [hs]
    exact ⟨h1, h2, ho⟩

/-- The sample that flips `output` is the seventh. -/
theorem eq_six_of_changed (h : s.Driven b k) (hc : (s.filterStep b).changed = true) : k = 6 := by
  have hflip : (s.filterStep b).output ≠ s.output := by rwa [State.filterStep_changed, bne_iff_ne] at hc
  refine Decidable.byContradiction fun hk => ?_
  have hsame : (s.filterStep b).output = b ↔ s.output = b := by
    rw [h.filterStep.output_eq_iff, h.output_eq_iff]
    omega
  by_cases ho : s.output = b
  · exact hflip ((hsame.mpr ho).trans ho.symm)
  · exact hflip ((Bool.eq_not.mpr (mt hsame.mp ho)).trans (Bool.eq_not.mpr ho).symm)

end State.Driven

/-- After an RLSAMP at the inputs `p`, with `k` samples accepted so far. -/
def State.DrivenAt (b : Bool) (k : Nat) (p : Pins) (s : State) : Prop :=
  s.Driven b k ∧ s.lastSampleTick = tickOf p.nowMs

theorem State.Driven.step_rlsamp {s : State} {b : Bool} {k : Nat} (h : s.Driven b k) (hp : s.pins.isRlsamp b) :
    ∃ t, step s = .next t ∧
      (tickOf s.pins.nowMs = s.lastSampleTick ∧ t.DrivenAt b k s.pins ∧ t.changed = false ∨
        tickOf s.pins.nowMs ≠ s.lastSampleTick ∧ t.DrivenAt b (k + 1) s.pins ∧ (t.changed = true → k = 6)) := by
  obtain ⟨t, ht, hlast, ⟨hs, rfl⟩ | ⟨hs, rfl⟩⟩ := step_of_isRlsamp hp
  · exact ⟨_, ht, .inl ⟨hs, ⟨h.congr (by simp) (by simp) (by simp) (by simp) (by simp), hlast⟩, by simp⟩⟩
  · refine ⟨_, ht, .inr ⟨hs, ⟨h.filterStep.congr (by simp) (by simp) (by simp) (by simp) (by simp), hlast⟩, fun hc => ?_⟩⟩
    exact h.eq_six_of_changed (by simpa using hc)

/-- The start of R161: the extreme of the other output at the default thresholds. -/
theorem State.driven_zero {s : State} {b : Bool} (h1 : s.stage1 = if b then 0x00#7 else 0x7F#7)
    (h2 : s.stage2 = if b then 0x00#7 else 0x7F#7) (ho : s.output = !b) (hr : s.risingThreshold = 0x90#8)
    (hf : s.fallingThreshold = 0x70#8) : s.Driven b 0 := by
  rw [State.Driven, if_pos (by decide)]
  refine ⟨?_, ho, fun _ => hr, fun _ => hf⟩
  rw [h1, h2, oppositeStages, saturated]
  cases b <;> rfl

/-- At most one sample accepted per window, from the window of the clock value `c` on. -/
def State.DrivenWithin (b : Bool) (c : Nat) (p : Pins) (s : State) : Prop :=
  ∃ k, c / 4 + k ≤ p.nowMs / 4 + 1 ∧ s.DrivenAt b k p

theorem State.DrivenWithin.step_rlsamp {s : State} {b : Bool} {c : Nat} {p : Pins} (h : s.DrivenWithin b c p)
    (hp : p.nowMs ≤ s.pins.nowMs) (hb : s.pins.isRlsamp b) :
    ∃ t, step s = .next t ∧ t.DrivenWithin b c s.pins := by
  obtain ⟨k, hk, hd, hlast⟩ := h
  obtain ⟨t, ht, ⟨-, htd, -⟩ | ⟨hne, htd, -⟩⟩ := hd.step_rlsamp hb
  · exact ⟨t, ht, k, by omega, htd⟩
  · rw [hlast, Ne, tickOf_eq_iff] at hne
    exact ⟨t, ht, k + 1, by omega, htd⟩

/-- Settles O46: the seventh accepted sample stands at least six windows after the first. -/
theorem rateLimitedFlipTakesTwentyOneMs : Obligations.RateLimitedFlipTakesTwentyOneMs := by
  intro s ps b h1 h2 ho hr hf hall hsorted hl
  have hfirst := hall s.pins List.mem_cons_self
  have hfollow := (successive_of_pairwise hsorted).and
    (successive_of_forall_mem fun q hq => hall q (List.mem_cons_of_mem _ hq))
  have hstart : ∃ s', step s = .next s' ∧ s'.DrivenWithin b s.pins.nowMs s.pins := by
    obtain ⟨s', hs, ⟨-, hd, -⟩ | ⟨-, hd, -⟩⟩ := (State.driven_zero h1 h2 ho hr hf).step_rlsamp hfirst
    · exact ⟨s', hs, 0, by omega, hd⟩
    · exact ⟨s', hs, 1, by omega, hd⟩
  obtain ⟨s', hs, hd⟩ := hstart
  obtain ⟨t, ht, ⟨k, hk, hdriven, -⟩, -⟩ := run_of_successive (I := State.DrivenWithin b s.pins.nowMs)
    (fun _ _ h ⟨hle, hb⟩ => h.step_rlsamp hle hb) hs hd hfollow (hl.trans ps.append_nil.symm)
  refine ⟨t, ht, fun hout => ?_⟩
  have := hdriven.output_eq_iff.mp hout
  omega

/-- Exactly one sample accepted per window, from the window of the clock value `c` on, and `changed` set in the seventh alone. -/
def State.DrivenEach (b : Bool) (c : Nat) (p : Pins) (s : State) : Prop :=
  (∃ k, c / 4 + k = p.nowMs / 4 + 1 ∧ s.DrivenAt b k p) ∧ (s.changed = true → p.nowMs / 4 = c / 4 + 6)

theorem State.DrivenEach.step_rlsamp {s : State} {b : Bool} {c : Nat} {p : Pins} (h : s.DrivenEach b c p)
    (hp : p.nowMs ≤ s.pins.nowMs) (hnext : s.pins.nowMs / 4 ≤ p.nowMs / 4 + 1) (hb : s.pins.isRlsamp b) :
    ∃ t, step s = .next t ∧ t.DrivenEach b c s.pins := by
  obtain ⟨⟨k, hk, hd, hlast⟩, -⟩ := h
  obtain ⟨t, ht, ⟨heq, htd, hc⟩ | ⟨hne, htd, hc⟩⟩ := hd.step_rlsamp hb
  · rw [hlast, tickOf_eq_iff] at heq
    exact ⟨t, ht, ⟨k, by omega, htd⟩, by simp [hc]⟩
  · rw [hlast, Ne, tickOf_eq_iff] at hne
    exact ⟨t, ht, ⟨k + 1, by omega, htd⟩, fun hct => by have := hc hct; omega⟩

/-- Non-decreasing clock values that leave out no window move on by one window at most. -/
theorem successive_of_every_window {p : Pins} {ps : List Pins} (hsorted : (p :: ps).Pairwise fun p q => p.nowMs ≤ q.nowMs)
    (hvisit : ∀ n, p.nowMs / 4 ≤ n → n ≤ (ps.getLastD p).nowMs / 4 → ∃ q ∈ p :: ps, q.nowMs / 4 = n) :
    Successive (fun p q => p.nowMs ≤ q.nowMs ∧ q.nowMs / 4 ≤ p.nowMs / 4 + 1) p ps := by
  induction ps generalizing p with
  | nil => trivial
  | cons q ps ih =>
    obtain ⟨hp, htail⟩ := List.pairwise_cons.mp hsorted
    obtain ⟨hq, -⟩ := List.pairwise_cons.mp htail
    rw [List.getLastD_cons] at hvisit
    have hpq : p.nowMs ≤ q.nowMs := hp q List.mem_cons_self
    have hqle : ∀ r ∈ q :: ps, q.nowMs ≤ r.nowMs := List.forall_mem_cons.mpr ⟨Nat.le_refl _, hq⟩
    have hlast : q.nowMs ≤ (ps.getLastD q).nowMs := hqle _ List.getLastD_mem_cons
    refine successive_cons.mpr ⟨⟨hpq, ?_⟩, ih htail fun n hlo hhi => ?_⟩
    · refine Nat.le_of_not_lt fun hgap => ?_
      obtain ⟨r, hr, hrn⟩ := hvisit (p.nowMs / 4 + 1) (by omega) (by omega)
      obtain rfl | hr := List.mem_cons.mp hr
      · omega
      · have := hqle r hr
        omega
    · obtain ⟨r, hr, hrn⟩ := hvisit n (by omega) hhi
      obtain rfl | hr := List.mem_cons.mp hr
      · exact ⟨q, List.mem_cons_self, by omega⟩
      · exact ⟨r, hr, hrn⟩

/-- Settles O52: with no window left out, the windows count the accepted samples. -/
theorem rateLimitedFlipComesInTheSeventhWindow : Obligations.RateLimitedFlipComesInTheSeventhWindow := by
  intro s ps b h1 h2 ho hr hf hall hacc hsorted hvisit hl
  have hfirst := hall s.pins List.mem_cons_self
  have hfollow := (successive_of_every_window hsorted hvisit).and
    (successive_of_forall_mem fun q hq => hall q (List.mem_cons_of_mem _ hq))
  rw [fetch_of_isRlsamp hfirst, acceptedSample_rlsamp_eq_some, State.sameTick_eq_false_iff] at hacc
  obtain ⟨s', hs, ⟨heq, -⟩ | ⟨-, hd, hc⟩⟩ := (State.driven_zero h1 h2 ho hr hf).step_rlsamp hfirst
  · exact absurd heq hacc
  · obtain ⟨t, ht, ⟨⟨k, hk, hdriven, -⟩, hchanged⟩, -⟩ := run_of_successive (I := State.DrivenEach b s.pins.nowMs)
      (fun _ _ h ⟨⟨hle, hnext⟩, hb⟩ => h.step_rlsamp hle hnext hb) hs
      ⟨⟨1, by omega, hd⟩, fun hct => by simpa using hc hct⟩ hfollow (hl.trans ps.append_nil.symm)
    refine ⟨t, ht, ?_, fun hct => ?_⟩
    · rw [hdriven.output_eq_iff]
      omega
    · have := hchanged hct
      omega

end Sys2Proof.Machine

/-!
# The control commands (42_control.md)

A row fixes OP, and the field laws of the decoder give its command with the word's own D. What the command writes is one record
update, so the whole next state says what it keeps.
-/

namespace Sys2Proof.Machine

/-- Settles O6: the row fixes OP 000, whose arm reads no other bit. -/
theorem nopWritesNothing : Obligations.NopWritesNothing :=
  ⟨fun _ hw => (decode_of_row hw).trans (decode_packFields_op0 _ _), exec_nop⟩

/-- Settles O12: the row fixes OP 101, and the next state is the one update `setRising`. -/
theorem wriseStoresTheOperand : Obligations.WriseStoresTheOperand :=
  ⟨fun _ hw => (decode_of_row hw).trans (decode_packFields_op5 _ _), fun s d =>
    ⟨s.setRising d, exec_wrise s d, rfl, s.setRising_risingThreshold d⟩⟩

/-- Settles O13: the row fixes OP 110, and the next state is the one update `setFalling`. -/
theorem wfallStoresTheOperand : Obligations.WfallStoresTheOperand :=
  ⟨fun _ hw => (decode_of_row hw).trans (decode_packFields_op6 _ _), fun s d =>
    ⟨s.setFalling d, exec_wfall s d, rfl, s.setFalling_fallingThreshold d⟩⟩

end Sys2Proof.Machine

/-!
# Completion, refusal and independence (60_exceptions.md)

What the host drives at an edge decides the outcome of the step: permitted inputs give a next state, the reserved opcode is refused.
The queue of inputs only shrinks, and idling is permitted, so a permitted run never stops.
-/

namespace Sys2Proof.Machine

/-! ## The outcome of a step by its inputs -/

/-- The reserved opcode is the one that OP alone gives away (30_encoding.md R71, R76). -/
theorem decode_eq_reserved_iff (w : Command) : decode w = .reserved ↔ w &&& 0x007#12 = 0x007#12 := by
  obtain ⟨hrow, -⟩ := reservedOpcodeIsRefused
  refine ⟨fun h => ?_, hrow w⟩
  have hcov := covers_and_usedBits w (opField w) (r := ⟨"RESERVED", 0x007#12, 0x007#12⟩) (by decide)
  rw [← encode_decode, h] at hcov
  exact beq_iff_eq.mp hcov.symm

theorem wellFormed_eq_false_iff {i : Instr} : i.wellFormed = false ↔ i = .reserved := by
  cases i <;> simp [Instr.wellFormed]

theorem Pins.permitted_eq_false_iff {p : Pins} : p.permitted = false ↔ p.rst = false ∧ decode p.cmd = .reserved := by
  rw [Pins.permitted, Bool.or_eq_false_iff, wellFormed_eq_false_iff]

theorem step_next_of_permitted {s : State} (h : s.pins.permitted = true) : ∃ t, step s = .next t := by
  cases hr : s.pins.rst with
  | true => exact ⟨s.powerOn.advance, by simp [step, hr]⟩
  | false =>
    have hwf : (decode s.pins.cmd).wellFormed = true := by simpa [Pins.permitted, hr] using h
    obtain ⟨t, ht⟩ := exec_next_of_wellFormed hwf s
    exact ⟨t.advance, step_of_exec_next hr ht⟩

theorem step_refused_of_not_permitted {s : State} (h : s.pins.permitted = false) : step s = .refused .reservedOpcode := by
  obtain ⟨hr, hd⟩ := Pins.permitted_eq_false_iff.mp h
  exact step_of_exec_refused hr (hd ▸ exec_reserved s)

/-- Settles O23: the two outcomes by whether the inputs are permitted. -/
theorem onlyTheReservedOpcodeIsRefused : Obligations.OnlyTheReservedOpcodeIsRefused := by
  intro s
  rw [← decode_eq_reserved_iff, ← Pins.permitted_eq_false_iff]
  cases hp : s.pins.permitted with
  | true => exact .inl ⟨step_next_of_permitted hp, by simp⟩
  | false => exact .inr ⟨step_refused_of_not_permitted hp, rfl⟩

/-! ## What the host drives stays permitted -/

/-- A step that completes writes registers and then moves the host on: neither `pins` nor `later` is written before. -/
theorem step_next_advance {s t : State} (h : step s = .next t) :
    ∃ u : State, u.pins = s.pins ∧ u.later = s.later ∧ t = u.advance := by
  obtain ⟨-, rfl⟩ | ⟨-, u, hu, rfl⟩ := step_next_cases h
  · exact ⟨s.powerOn, rfl, rfl, rfl⟩
  · obtain ⟨-, hpins, hlater⟩ := exec_keeps_inputs hu
    exact ⟨u, hpins, hlater, rfl⟩

theorem Pins.permitted_idle (p : Pins) : p.idle.permitted = true := rfl

theorem State.hostPermitted_advance {s : State} (h : s.hostPermitted = true) : s.advance.hostPermitted = true := by
  have hlater : s.later.all Pins.permitted = true := (Bool.and_eq_true_iff.mp h).right
  cases hl : s.later with
  | nil => simp [s.advance_of_nil hl, State.hostPermitted, hl, Pins.permitted_idle]
  | cons p ps => rwa [s.advance_of_cons p ps hl, State.hostPermitted, ← List.all_cons, ← hl]

theorem step_next_of_hostPermitted {s : State} (h : s.hostPermitted = true) :
    ∃ t, step s = .next t ∧ t.hostPermitted = true := by
  have hp : s.pins.permitted = true := (Bool.and_eq_true_iff.mp h).left
  obtain ⟨t, ht⟩ := step_next_of_permitted hp
  obtain ⟨u, hpins, hlater, rfl⟩ := step_next_advance ht
  have hu : u.hostPermitted = true := by rwa [State.hostPermitted, hpins, hlater]
  exact ⟨u.advance, ht, State.hostPermitted_advance hu⟩

/-- Settles O24: by induction on the length of the run, each step leaving permitted inputs to the rest. -/
theorem permittedRunsNeverStop : Obligations.PermittedRunsNeverStop := by
  refine ⟨fun s => step_next_of_hostPermitted, fun k => ?_⟩
  induction k with
  | zero => exact fun s h => ⟨s, run_zero s, h⟩
  | succ k ih =>
    intro s h
    obtain ⟨t, ht, hperm⟩ := step_next_of_hostPermitted h
    rw [run_succ_of_next k ht]
    exact ih t hperm

/-! ## The conforming block -/

/-- The accept path as R154 writes it, over the natural numbers. -/
theorem State.accept_eq_formula (s : State) (b : Bool) :
    s.accept b = { filterStepFormula s b with lastSampleTick := BitVec.ofNat 8 (s.pins.nowMs / 4 % 256) } := by
  have htick : s.tick = BitVec.ofNat 8 (s.pins.nowMs / 4 % 256) := by
    rw [← tickOf_toNat, BitVec.ofNat_toNat, BitVec.setWidth_eq, State.tick]
  rw [State.accept, State.filterStep_eq_formula, htick]

/-- The comparator as R151 writes it, over the natural numbers. -/
theorem State.sameTick_iff_toNat (s : State) : s.sameTick = true ↔ s.pins.nowMs / 4 % 256 = s.lastSampleTick.toNat := by
  rw [State.sameTick_iff, ← BitVec.toNat_inj, tickOf_toNat]

theorem exec_eq_conformingExec {i : Instr} (hi : i.wellFormed = true) (s : State) :
    exec i s = .next (conformingExec i s) := by
  cases i with
  | nop | reset | wrise | wfall => rfl
  | fsamp b | asamp b => exact congrArg _ (s.filterStep_eq_formula b)
  | rlsamp b =>
    simp only [exec_rlsamp, s.sameTick_iff_toNat, s.accept_eq_formula]
    rfl
  | reserved => cases hi

theorem conformingStep_of_step_next {s t : State} (h : step s = .next t) : conformingStep s = t := by
  obtain ⟨hr, rfl⟩ | ⟨hr, u, hu, rfl⟩ := step_next_cases h
  · rw [conformingStep, if_pos hr]
    rfl
  · have hwf : s.fetch.wellFormed = true := by
      rw [← Bool.not_eq_false, wellFormed_eq_false_iff]
      intro hd
      rw [hd] at hu
      cases hu
    rw [exec_eq_conformingExec hwf] at hu
    cases hu
    simp [conformingStep, hr, State.fetch]

theorem conformingRun_of_run_next {k : Nat} {s t : State} (h : Host.Core.run core k s = .next t) :
    conformingRun k s = t := by
  induction k generalizing s with
  | zero => cases h; rfl
  | succ k ih =>
    obtain ⟨u, hu, ht⟩ := run_succ_next h
    rw [conformingRun, conformingStep_of_step_next hu, ih ht]

/-- Settles O25: command by command against the rules, then step by step along the run; a refused edge executes OP 111. -/
theorem modelRefinesTheConformingBlock : Obligations.ModelRefinesTheConformingBlock := by
  refine ⟨fun i s hi => exec_eq_conformingExec hi s, fun k s t => conformingRun_of_run_next, fun s r h => ?_⟩
  obtain ⟨⟨t, ht⟩, -⟩ | ⟨-, hr, hw⟩ := onlyTheReservedOpcodeIsRefused s
  · rw [ht] at h
    cases h
  · have hd : decode s.pins.cmd = .reserved := (decode_eq_reserved_iff _).mpr hw
    have hstep : conformingStep s = s.advance := by simp [conformingStep, hr, hd, conformingExec]
    exact ⟨hd, by simp [hstep, State.sameRegisters]⟩

/-! ## Several instances (R208, R212) -/

/-- One instance over the sequence of its own moments, each with or without an edge. -/
def Channel.clockedAll (edges : List Bool) (c : Channel) : Channel := edges.foldl (fun c e => c.clocked e) c

@[simp] theorem Channel.clocked_false (c : Channel) : c.clocked false = c := by
  cases c <;> rfl

theorem Channel.clockedAll_of_no_edge {edges : List Bool} (h : ∀ e ∈ edges, e = false) (c : Channel) :
    c.clockedAll edges = c := by
  induction edges with
  | nil => rfl
  | cons e es ih =>
    obtain ⟨rfl, hes⟩ := List.forall_mem_cons.mp h
    exact (congrArg (Channel.clockedAll es) c.clocked_false).trans (ih hes)

/-- At one moment an instance sees its own entry of `edges` and nothing else. -/
theorem getElem?_clockBank (edges : List Bool) (bank : List Channel) (k : Nat) :
    (clockBank edges bank)[k]? = bank[k]?.map (Channel.clocked (edges.getD k false)) := by
  induction edges, bank using clockBank.induct generalizing k with
  | case1 => simp [clockBank]
  | case2 bank => simp [clockBank, funext Channel.clocked_false]
  | case3 e es c cs ih =>
    cases k with
    | zero => rfl
    | succ k => exact ih k

/-- Over all moments an instance runs through its own edges from its own start. -/
theorem getElem?_runBank (moments : List (List Bool)) (bank : List Channel) (k : Nat) :
    (runBank moments bank)[k]? = bank[k]?.map (Channel.clockedAll (moments.map fun m => m.getD k false)) := by
  induction moments generalizing bank with
  | nil => exact (congrFun Option.map_id _).symm
  | cons m ms ih =>
    calc (runBank (m :: ms) bank)[k]?
        = (clockBank m bank)[k]?.map (Channel.clockedAll (ms.map fun m => m.getD k false)) := ih _
      _ = bank[k]?.map (Channel.clockedAll ((m :: ms).map fun m => m.getD k false)) := by
        rw [getElem?_clockBank, Option.map_map]
        rfl

/-- Settles O49: both sides of the comparison are one instance's own run. -/
theorem channelsAreIndependent : Obligations.ChannelsAreIndependent := by
  intro ms ns xs ys k hstart hedges
  refine ⟨by rw [getElem?_runBank, getElem?_runBank, hstart, hedges], fun hnone => ?_⟩
  have hhold : Channel.clockedAll (ms.map fun m => m.getD k false) = id :=
    funext fun c => Channel.clockedAll_of_no_edge (List.forall_mem_map.mpr hnone) c
  rw [getElem?_runBank, hhold, Option.map_id, id]

end Sys2Proof.Machine

/-!
# Reset and hazards (70_reset_and_hazards.md)

A reset edge writes every register from `init_state` and TICK_RESET alone, so only the last one of a run of them counts. A
threshold written at one edge stands in the register that the trigger compares at the next.
-/

namespace Sys2Proof.Machine

/-! ## The registers across the edge -/

@[simp] theorem State.sameRegisters_advance_left {s t : State} : s.advance.sameRegisters t ↔ s.sameRegisters t := by
  simp [State.sameRegisters]

@[simp] theorem State.sameRegisters_advance_right {s t : State} : s.sameRegisters t.advance ↔ s.sameRegisters t := by
  simp [State.sameRegisters]

/-! ## The reset edge (R230, R231) -/

theorem step_of_rst {s : State} (hr : s.pins.rst = true) : step s = .next s.powerOn.advance := by
  simp [step, hr]

/-- Power-on reset reads `init_state` and TICK_RESET and nothing else. -/
theorem State.powerOn_sameRegisters {s t : State} (hinit : s.pins.initState = t.pins.initState)
    (htick : s.tickReset = t.tickReset) : s.powerOn.sameRegisters t.powerOn := by
  simp [State.sameRegisters, hinit, htick]

/-- What a reset edge with the inputs `p` leaves, in the block of `s`. -/
def State.ResetAs (s : State) (p : Pins) (t : State) : Prop :=
  t.tickReset = s.tickReset ∧ t.sameRegisters (State.powerOn { s with pins := p })

theorem State.ResetAs.of_step {s u : State} (hr : u.pins.rst = true) (htick : u.tickReset = s.tickReset) :
    ∃ t, step u = .next t ∧ s.ResetAs u.pins t :=
  ⟨_, step_of_rst hr, by simpa using htick,
    State.sameRegisters_advance_left.mpr (State.powerOn_sameRegisters rfl htick)⟩

/-! ## An accepted sample at the next edge (R241) -/

@[simp] theorem levelFormula_advance (s : State) (b : Bool) : levelFormula s.advance b = levelFormula s b := by
  simp [levelFormula]

@[simp] theorem levelFormula_setRising (s : State) (d : Lane) (b : Bool) :
    levelFormula (s.setRising d) b = levelFormula s b := rfl

@[simp] theorem levelFormula_setFalling (s : State) (d : Lane) (b : Bool) :
    levelFormula (s.setFalling d) b = levelFormula s b := rfl

/-- An edge with an accepted sample completes, and leaves `output` as the filter step does. -/
theorem step_output_of_accepted {s : State} {b : Bool} (hr : s.pins.rst = false)
    (ha : acceptedSample (decode s.pins.cmd) s = some b) : ∃ u, step s = .next u ∧ u.output = (s.filterStep b).output := by
  obtain h | h := exec_of_accepted ha
  · exact ⟨_, step_of_exec_next hr h, State.advance_output _⟩
  · exact ⟨_, step_of_exec_next hr h, State.advance_output _⟩

/-- The same, for the edge that follows a completed one and takes the first inputs of its schedule. -/
theorem step_output_of_accepted_next {s t : State} {p : Pins} {ps : List Pins} (hs : step s = .next t)
    (hl : s.later = p :: ps) (hp : p.rst = false) :
    t.pins = p ∧ ∀ b, acceptedSample (decode p.cmd) t = some b →
      ∃ u, step t = .next u ∧ u.output = (t.filterStep b).output := by
  obtain ⟨rfl, -⟩ := step_next_inputs hs hl
  exact ⟨rfl, fun _ => step_output_of_accepted hp⟩

/-! ## The obligations -/

/-- Settles O2: along held reset edges `ResetAs` is kept for the inputs of the latest edge. -/
theorem heldResetKeepsLastInitState : Obligations.HeldResetKeepsLastInitState := by
  refine ⟨fun s t c n hr htick hpins => ?_, fun s ps rest hr hrst hl => ?_⟩
  · have hrt : t.pins.rst = true := by rw [hpins]; exact hr
    have hinit : s.pins.initState = t.pins.initState := by rw [hpins]
    exact ⟨_, _, step_of_rst hr, step_of_rst hrt, by simpa using State.powerOn_sameRegisters hinit htick.symm⟩
  · obtain ⟨s', hs, hfirst⟩ := State.ResetAs.of_step (s := s) hr rfl
    obtain ⟨t, ht, ⟨-, hregs⟩, -⟩ := run_of_successive (I := s.ResetAs)
      (fun _ _ ⟨htick, _⟩ hru => State.ResetAs.of_step hru htick) hs hfirst (successive_of_forall_mem hrst) hl
    exact ⟨t, ht, hregs⟩

/-- Settles O48: the write keeps the stages and `output`, so the next edge compares the same level with the new threshold. -/
theorem writtenThresholdIsUsedNext : Obligations.WrittenThresholdIsUsedNext := by
  intro s p ps d hr hl hp
  refine ⟨fun hd ho => ?_, fun hd ho => ?_⟩
  · have hstep : step s = .next (s.setRising d).advance := step_of_exec_next hr (by rw [hd, exec_wrise])
    obtain ⟨hpins, hnext⟩ := step_output_of_accepted_next hstep hl hp
    refine ⟨_, hstep, hpins, fun b ha => ?_⟩
    obtain ⟨u, hu, hout⟩ := hnext b ha
    have hlow : (s.setRising d).advance.output = false := by simpa using ho
    exact ⟨u, hu, by simpa [hout] using State.filterStep_output_of_low hlow b⟩
  · have hstep : step s = .next (s.setFalling d).advance := step_of_exec_next hr (by rw [hd, exec_wfall])
    obtain ⟨hpins, hnext⟩ := step_output_of_accepted_next hstep hl hp
    refine ⟨_, hstep, hpins, fun b ha => ?_⟩
    obtain ⟨u, hu, hout⟩ := hnext b ha
    have hhigh : (s.setFalling d).advance.output = true := by simpa using ho
    exact ⟨u, hu, by simpa [hout] using State.filterStep_output_of_high hhigh b⟩

/-- Settles O1: both forms of the next state are the power-on update, the second with RESET's writes taken first. -/
theorem powerOnEdgeWritesEveryRegister : Obligations.PowerOnEdgeWritesEveryRegister := fun s hr =>
  ⟨step_of_rst hr, s.saturate s.pins.initState false, exec_reset s s.pins.initState, step_of_rst hr⟩

/-- Settles O3: the reset edge takes the next inputs off the schedule, and the step there runs their command. -/
theorem firstEdgeAfterResetExecutes : Obligations.FirstEdgeAfterResetExecutes := by
  intro s p ps hr hl hp
  obtain ⟨hpins, hlater⟩ := step_next_inputs (step_of_rst hr) hl
  have hrun := stepRunsThePresentedCommand.left s.powerOn.advance (by rw [hpins, hp])
  rw [hpins] at hrun
  obtain ⟨hnext, hrefused⟩ := hrun
  exact ⟨_, step_of_rst hr, hpins, hlater, by simpa using State.powerOn_sameRegisters rfl rfl, hnext, hrefused⟩

/-- Settles O4: field by field of the record, each at the value the rule gives for a low `init_state`. -/
theorem resetStateHasTheResetValues : Obligations.ResetStateHasTheResetValues :=
  ⟨rfl, rfl, rfl, rfl, rfl, rfl, rfl⟩

end Sys2Proof.Machine
